-- ==== Sys2Proof/Word.lean ====
section
/-! DEFINITION. The word types of the CORE: 64-bit data lanes (`XLEN`), 32-bit instruction words (`ILEN`),
5-bit register and opcode fields and the 12-bit immediate (00_scope.md R5, 30_encoding.md R80, R81). -/

namespace Sys2Proof

/-- A `u64`: a data lane, a register, an ALU operand, a memory cell or an address (R5, R6). -/
abbrev Word := BitVec 64

/-- One byte of a memory cell, as the model stores it (log entry 11). -/
abbrev Byte := BitVec 8

/-- A 32-bit instruction word (R80). -/
abbrev InstrWord := BitVec 32

/-- A raw 5-bit register number, 0..31 (R84). -/
abbrev RegNo := BitVec 5

/-- A 5-bit opcode (R86). -/
abbrev Opcode := BitVec 5

/-- The 12-bit immediate field (R85). -/
abbrev Imm := BitVec 12

end Sys2Proof
end

