-- ==== Sys2Proof/Machine/Flags.lean ====
section
/-! DEFINITION. The CORE has no flags, condition codes or predicate registers (10_state.md R32), so no operation writes
one. What stands here is the whole of its conditions: the 64-bit 1 or 0 that a compare gives as an ordinary result
(44_alu.md R197, R198) and the one test that an instruction makes of it, whether the ALU output is nonzero
(46_writeback.md R232). -/

namespace Sys2Proof.Machine

/-- The result of a compare: 1 for true, 0 for false, 64 bits (44_alu.md R197, R198). -/
def compareResult (holds : Bool) : Word := if holds then 1 else 0

/-- "ALU result is nonzero" (46_writeback.md R232). -/
def nonzero (v : Word) : Bool := v != 0

end Sys2Proof.Machine
end

