-- ==== Sys2Proof/Config.lean ====
section
/-! DEFINITION. The implementation parameters of 00_scope.md R5: the shape of the control tables (30_encoding.md R87 to
R91), the record of the parameters that are plain data, and the parameters about which nothing is known, as constants
with no body. No value of an OPEN parameter is fixed anywhere in the model. -/

namespace Sys2Proof

/-- The 18 ALU operations (30_encoding.md R88, 44_alu.md R182). -/
inductive AluOp where
  | none | add | sub | mul | div | fadd | fsub | fmul | fdiv
  | and | or | xor | not | shl | shr | ne | gt | sethi
deriving DecidableEq, Repr, Inhabited

/-- `OpSrc`, the ALU operand source (30_encoding.md R88). -/
inductive OpSrc where
  | rd | rs | rt | imm | pc | zero
deriving DecidableEq, Repr, Inhabited

/-- `MemOp`, the LSU's operation (30_encoding.md R89). -/
inductive MemOp where
  | none | load | store
deriving DecidableEq, Repr, Inhabited

/-- `MemSrc`, the LSU's address and data source (30_encoding.md R89). -/
inductive MemSrc where
  | linkRel | rs | alu | pc4
deriving DecidableEq, Repr, Inhabited

/-- `WbSrc`, the writeback result source (30_encoding.md R90). -/
inductive WbSrc where
  | alu | lsu | brCond
deriving DecidableEq, Repr, Inhabited

/-- `WbDest`, the writeback destination (30_encoding.md R90). -/
inductive WbDest where
  | reg | pc | none
deriving DecidableEq, Repr, Inhabited

/-- `RegMap`, the register-id mapping of one slot (30_encoding.md R91). -/
inductive RegMap where
  | pass | link | off
deriving DecidableEq, Repr, Inhabited

/-- The ALU signal: operation and two operand sources (R87). -/
structure AluSignal where
  op   : AluOp
  src0 : OpSrc
  src1 : OpSrc
deriving DecidableEq, Repr, Inhabited

/-- The memory signal: operation, address source and data source (R87). -/
structure MemSignal where
  op   : MemOp
  addr : MemSrc
  data : MemSrc
deriving DecidableEq, Repr, Inhabited

/-- The writeback signal: result source and destination (R87). -/
structure WbSignal where
  src  : WbSrc
  dest : WbDest
deriving DecidableEq, Repr, Inhabited

/-- The register-id mapping of the three slots (R87). -/
structure SlotMap where
  rd : RegMap
  rs : RegMap
  rt : RegMap
deriving DecidableEq, Repr, Inhabited

/-- `CTL[k]`: one opcode's entry in the three signal tables and the register-mapping table (R87). -/
structure Entry where
  alu : AluSignal
  mem : MemSignal
  wb  : WbSignal
  map : SlotMap
deriving DecidableEq, Repr, Inhabited

/-- The 29 instruction classes that have an opcode parameter `OPC_<name>` (30_encoding.md R95). `in` and `out` are
spelt `inp` and `outp`. -/
inductive Mnemonic where
  | add | sub | mul | div | addi
  | fadd | fsub | fmul | fdiv
  | and | or | xor | not
  | shl | shr | shli | shri
  | bne | bgt | call | ret
  | load | store
  | mov | movi | movhi
  | inp | outp | halt
deriving DecidableEq, Repr, Inhabited

/-- The classes in the order of R95's table. -/
def Mnemonic.all : List Mnemonic :=
  [.add, .sub, .mul, .div, .addi, .fadd, .fsub, .fmul, .fdiv, .and, .or, .xor, .not, .shl, .shr, .shli, .shri,
   .bne, .bgt, .call, .ret, .load, .store, .mov, .movi, .movhi, .inp, .outp, .halt]

/-- The place of a class in `Mnemonic.all`. -/
def Mnemonic.index : Mnemonic → Fin 29
  | .add => 0 | .sub => 1 | .mul => 2 | .div => 3 | .addi => 4
  | .fadd => 5 | .fsub => 6 | .fmul => 7 | .fdiv => 8
  | .and => 9 | .or => 10 | .xor => 11 | .not => 12
  | .shl => 13 | .shr => 14 | .shli => 15 | .shri => 16
  | .bne => 17 | .bgt => 18 | .call => 19 | .ret => 20
  | .load => 21 | .store => 22
  | .mov => 23 | .movi => 24 | .movhi => 25
  | .inp => 26 | .outp => 27 | .halt => 28

/-- The parameters of R5 that are plain data, fixed for a run (10_state.md R37). The two capacities are held as the
number of cells less one, so that every capacity of R5 (a positive multiple of 8 bytes) is one value and no other
capacity can be written (log entry 7). -/
structure Params where
  /-- `CTL`, one entry for each of the 32 opcodes. -/
  ctl           : Vector Entry 32
  /-- `OPC_<name>` in the order of `Mnemonic.all`. -/
  opcodes       : Vector Opcode 29
  /-- `GUARD_VALUE`. -/
  guardValue    : Word
  /-- `ALU_SENTINEL`. -/
  aluSentinel   : Word
  /-- `LINK_INDEX`, in 0..31. -/
  linkIndex     : RegNo
  /-- `IMEM_BYTES / 8 - 1`. -/
  imemCellsPred : Nat
  /-- `DMEM_BYTES / 8 - 1`. -/
  dmemCellsPred : Nat
deriving DecidableEq, Repr, Inhabited

/-- The opcode number `OPC_<name>` of a class (R5). -/
def Params.opc (p : Params) (m : Mnemonic) : Opcode := p.opcodes[m.index]

/-- `IMEM_CELLS` (R5). -/
def Params.imemCells (p : Params) : Nat := p.imemCellsPred + 1

/-- `DMEM_CELLS` (R5). -/
def Params.dmemCells (p : Params) : Nat := p.dmemCellsPred + 1

/-- `IMEM_BYTES` (R5). -/
def Params.imemBytes (p : Params) : Nat := 8 * p.imemCells

/-- `DMEM_BYTES` (R5). -/
def Params.dmemBytes (p : Params) : Nat := 8 * p.dmemCells

/-- The four binary64 operations, the first argument of `FP_NAN` (R5). -/
inductive FpOp where
  | fadd | fsub | fmul | fdiv
deriving DecidableEq, Repr, Inhabited

/-- The two shifts, the first argument of `SHIFT_OOR` (R5). -/
inductive ShiftOp where
  | shl | shr
deriving DecidableEq, Repr, Inhabited

/-- The parameters of the hardware that reset takes, unknown (R5: OPEN). `Machine/Tables.lean` makes them legal
(log entry 3). -/
opaque Config.rawParams : Params

/-- `LINK_REL`, unknown (R5: OPEN, 45_lsu.md R212; log entry 4). -/
opaque Config.linkRel : Word → Imm → Word

/-- `SHIFT_OOR`, unknown (R5: OPEN, 44_alu.md R195, R196; log entry 5). -/
opaque Config.shiftOor : ShiftOp → Word → Word → Word

/-- The bits `FP_NAN` is made from, unknown (R5: OPEN, 44_alu.md R201; log entry 6). -/
opaque Config.fpNanBits : FpOp → Word → Word → Word

/-- `NEUTRAL_ADDR` (R5: decided 0). -/
def Config.neutralAddr : Word := 0

/-- `DADDR_SHIFT` (R5: decided 3). -/
def Config.daddrShift : Nat := 3

end Sys2Proof
end

