-- ==== Sys2Proof/Machine/Float64.lean ====
section
/-! DEFINITION. IEEE-754 binary64 arithmetic as the ALU does it (44_alu.md R187 to R190, R201): the exact result is
formed as a ratio of natural numbers in units of the smallest subnormal, 2^-1074, and rounded once, to nearest with ties to
even. Subnormals are kept, infinities and signed zeros follow IEEE-754, there are no flags, and a NaN result is
`FP_NAN(op, a, b)`. The encoding and the special-value table are IEEE-754's, which the source names and does not repeat
(log entry 18). -/

namespace Sys2Proof.Machine

/-- The sign bit. -/
def f64Sign (v : Word) : Bool := v.getLsbD 63

/-- The biased exponent field, bits 62..52. -/
def f64Exp (v : Word) : Nat := (v.extractLsb' 52 11).toNat

/-- The fraction field, bits 51..0. -/
def f64Frac (v : Word) : Nat := (v.extractLsb' 0 52).toNat

/-- Exponent all ones, fraction nonzero (R201). -/
def f64IsNan (v : Word) : Bool := f64Exp v == 2047 && f64Frac v != 0

/-- Exponent all ones, fraction zero. -/
def f64IsInf (v : Word) : Bool := f64Exp v == 2047 && f64Frac v == 0

/-- The magnitude of a finite value in units of 2^-1074: subnormals and zeros have exponent field 0. -/
def f64Mag (v : Word) : Nat :=
  if f64Exp v = 0 then f64Frac v else (2 ^ 52 + f64Frac v) * 2 ^ (f64Exp v - 1)

/-- A finite value in units of 2^-1074. -/
def f64Units (v : Word) : Int := if f64Sign v then -(f64Mag v : Int) else (f64Mag v : Int)

/-- The magnitude bits of an infinity. -/
def infBits : Nat := 2047 * 2 ^ 52

/-- A sign and magnitude bits as a pattern. -/
def packSign (sign : Bool) (bits : Nat) : Word := BitVec.ofNat 64 (bits + if sign then 2 ^ 63 else 0)

/-- `n / d` rounded to the nearest natural number, ties to even (R201). -/
def roundDiv (n d : Nat) : Nat :=
  let q := n / d
  let r := n % d
  if 2 * r < d then q else if d < 2 * r then q + 1 else q + q % 2

/-- The number of low bits that the binade of `n / d` units drops: 0 below 2^53 units. -/
def dropBits (n d : Nat) : Nat := Nat.log2 (n / d) - 52

/-- The magnitude bits of `n / d` units rounded to binary64: nearest, ties to even, an infinity past the largest finite
value (R201). A significand `m` of the binade that drops `k` bits has the bits `k * 2^52 + m`. -/
def roundBits (n d : Nat) : Nat :=
  let k := dropBits n d
  Nat.min (k * 2 ^ 52 + roundDiv n (d * 2 ^ k)) infBits

/-- `FP_NAN(op, a, b)`: any NaN encoding, whatever the unknown bits are (R201, log entry 6). -/
def fpNan (op : FpOp) (a b : Word) : Word :=
  let raw := Config.fpNanBits op a b ||| 0x7FF0000000000000#64
  if f64Frac raw = 0 then raw ||| 1 else raw

/-- The sum of two values that are not NaN, `none` where IEEE-754 gives a NaN (R187). -/
def f64Add (a b : Word) : Option Word :=
  if f64IsInf a then
    if f64IsInf b && f64Sign a != f64Sign b then none else some a
  else if f64IsInf b then some b
  else
    let n := f64Units a + f64Units b
    if n = 0 then some (packSign (f64Sign a && f64Sign b) 0)
    else some (packSign (decide (n < 0)) (roundBits n.natAbs 1))

/-- A value with its sign bit inverted. -/
def f64Neg (v : Word) : Word := v ^^^ 0x8000000000000000#64

/-- The product of two values that are not NaN (R189). -/
def f64Mul (a b : Word) : Option Word :=
  let sign := f64Sign a ^^ f64Sign b
  if f64IsInf a then
    if f64Mag b = 0 then none else some (packSign sign infBits)
  else if f64IsInf b then
    if f64Mag a = 0 then none else some (packSign sign infBits)
  else some (packSign sign (roundBits (f64Mag a * f64Mag b) (2 ^ 1074)))

/-- The quotient of two values that are not NaN (R190). -/
def f64Div (a b : Word) : Option Word :=
  let sign := f64Sign a ^^ f64Sign b
  if f64IsInf a then
    if f64IsInf b then none else some (packSign sign infBits)
  else if f64IsInf b then some (packSign sign 0)
  else if f64Mag b = 0 then
    if f64Mag a = 0 then none else some (packSign sign infBits)
  else some (packSign sign (roundBits (f64Mag a * 2 ^ 1074) (f64Mag b)))

/-- The operation on values that are not NaN; `a - b` is `a + (-b)` (R188). -/
def f64Exact (op : FpOp) (a b : Word) : Option Word :=
  match op with
  | .fadd => f64Add a b
  | .fsub => f64Add a (f64Neg b)
  | .fmul => f64Mul a b
  | .fdiv => f64Div a b

/-- A binary64 operation of the ALU: `FP_NAN(op, a, b)` whenever an operand or the result is a NaN (R187 to R190,
R201). -/
def fpOp (op : FpOp) (a b : Word) : Word :=
  if f64IsNan a || f64IsNan b then fpNan op a b
  else match f64Exact op a b with
    | some r => r
    | none => fpNan op a b

end Sys2Proof.Machine
end

