-- ==== Sys2Proof/Machine/Alu.lean ====
section
/-! DEFINITION. The ALU's 18 operations (44_alu.md R182 to R200) as one function of the operation and two operands,
which faults on two operand pairs of `DIV` (R186) and reads no state. -/

namespace Sys2Proof.Machine

/-- The two operand pairs on which `DIV` raises a fatal condition (44_alu.md R186). -/
inductive AluFault where
  | divZero
  | divOverflow
deriving DecidableEq, Repr

/-- The most negative signed 64-bit value. -/
def intMin : Word := 0x8000000000000000#64

/-- `DIV`: signed, truncating toward zero; fatal on a zero divisor and on `-2^63 / -1` (R186). -/
def aluDiv (a b : Word) : Except AluFault Word :=
  if b = 0 then .error .divZero
  else if a = intMin ∧ b = BitVec.allOnes 64 then .error .divOverflow
  else .ok (BitVec.ofInt 64 (Int.tdiv a.toInt b.toInt))

/-- A logical shift: by amounts below 64 as given, otherwise `SHIFT_OOR(op, a, b)` (R195, R196). -/
def aluShift (op : ShiftOp) (a b : Word) : Word :=
  if b.toNat < 64 then
    match op with
    | .shl => a <<< b.toNat
    | .shr => a >>> b.toNat
  else Config.shiftOor op a b

/-- `SETHI`: bits 63..52 replaced by the low 12 bits of the second operand (R199). -/
def aluSetHi (a b : Word) : Word := (a &&& 0x000FFFFFFFFFFFFF#64) ||| ((b &&& 0xFFF#64) <<< 52)

/-- `ALU(op, a, b)` (44_alu.md R182); `NONE` gives `ALU_SENTINEL` (R200). -/
def alu (p : Params) (op : AluOp) (a b : Word) : Except AluFault Word :=
  match op with
  | .none => .ok p.aluSentinel
  | .add => .ok (a + b)
  | .sub => .ok (a - b)
  | .mul => .ok (BitVec.ofInt 64 (a.toInt * b.toInt))
  | .div => aluDiv a b
  | .fadd => .ok (fpOp .fadd a b)
  | .fsub => .ok (fpOp .fsub a b)
  | .fmul => .ok (fpOp .fmul a b)
  | .fdiv => .ok (fpOp .fdiv a b)
  | .and => .ok (a &&& b)
  | .or => .ok (a ||| b)
  | .xor => .ok (a ^^^ b)
  | .not => .ok (~~~a)
  | .shl => .ok (aluShift .shl a b)
  | .shr => .ok (aluShift .shr a b)
  | .ne => .ok (compareResult (a != b))
  | .gt => .ok (compareResult (decide (b.toInt < a.toInt)))
  | .sethi => .ok (aluSetHi a b)

end Sys2Proof.Machine
end

