-- ==== Sys2Proof/Syntax.lean ====
section
/-! DEFINITION. The instructions as syntax: one constructor for each of the 62 rows of spec/opcode_table.json. A row
`opcode_<k>` is the word whose opcode field is `k` (47_instructions.md R249); a named row is the instruction whose
opcode number is the parameter `OPC_<name>` (30_encoding.md R95); `undefined` is the row of the opcode values that are no
instruction's number (R251). Every constructor keeps all the fields of the one format, those that the row ignores
under REF too, because under another `CTL` they may matter (30_encoding.md R93, log entry 15). -/

namespace Sys2Proof

/-- The fields of the one format besides the opcode (30_encoding.md R81). -/
structure Fields where
  rd  : RegNo
  rs  : RegNo
  rt  : RegNo
  imm : Imm
deriving DecidableEq, Repr, Inhabited

/-- An instruction, one constructor per row of the opcode table. -/
inductive Instr where
  /-- Row `opcode_0` (R249). -/
  | opcode0 (f : Fields)
  /-- Row `opcode_1` (R249). -/
  | opcode1 (f : Fields)
  /-- Row `opcode_2` (R249). -/
  | opcode2 (f : Fields)
  /-- Row `opcode_3` (R249). -/
  | opcode3 (f : Fields)
  /-- Row `opcode_4` (R249). -/
  | opcode4 (f : Fields)
  /-- Row `opcode_5` (R249). -/
  | opcode5 (f : Fields)
  /-- Row `opcode_6` (R249). -/
  | opcode6 (f : Fields)
  /-- Row `opcode_7` (R249). -/
  | opcode7 (f : Fields)
  /-- Row `opcode_8` (R249). -/
  | opcode8 (f : Fields)
  /-- Row `opcode_9` (R249). -/
  | opcode9 (f : Fields)
  /-- Row `opcode_10` (R249). -/
  | opcode10 (f : Fields)
  /-- Row `opcode_11` (R249). -/
  | opcode11 (f : Fields)
  /-- Row `opcode_12` (R249). -/
  | opcode12 (f : Fields)
  /-- Row `opcode_13` (R249). -/
  | opcode13 (f : Fields)
  /-- Row `opcode_14` (R249). -/
  | opcode14 (f : Fields)
  /-- Row `opcode_15` (R249). -/
  | opcode15 (f : Fields)
  /-- Row `opcode_16` (R249). -/
  | opcode16 (f : Fields)
  /-- Row `opcode_17` (R249). -/
  | opcode17 (f : Fields)
  /-- Row `opcode_18` (R249). -/
  | opcode18 (f : Fields)
  /-- Row `opcode_19` (R249). -/
  | opcode19 (f : Fields)
  /-- Row `opcode_20` (R249). -/
  | opcode20 (f : Fields)
  /-- Row `opcode_21` (R249). -/
  | opcode21 (f : Fields)
  /-- Row `opcode_22` (R249). -/
  | opcode22 (f : Fields)
  /-- Row `opcode_23` (R249). -/
  | opcode23 (f : Fields)
  /-- Row `opcode_24` (R249). -/
  | opcode24 (f : Fields)
  /-- Row `opcode_25` (R249). -/
  | opcode25 (f : Fields)
  /-- Row `opcode_26` (R249). -/
  | opcode26 (f : Fields)
  /-- Row `opcode_27` (R249). -/
  | opcode27 (f : Fields)
  /-- Row `opcode_28` (R249). -/
  | opcode28 (f : Fields)
  /-- Row `opcode_29` (R249). -/
  | opcode29 (f : Fields)
  /-- Row `opcode_30` (R249). -/
  | opcode30 (f : Fields)
  /-- Row `opcode_31` (R249). -/
  | opcode31 (f : Fields)
  /-- Row `ADD` (R252). -/
  | add (f : Fields)
  /-- Row `SUB` (R253). -/
  | sub (f : Fields)
  /-- Row `MUL` (R254). -/
  | mul (f : Fields)
  /-- Row `DIV` (R255). -/
  | div (f : Fields)
  /-- Row `ADDI` (R256). -/
  | addi (f : Fields)
  /-- Row `FADD` (R257). -/
  | fadd (f : Fields)
  /-- Row `FSUB` (R258). -/
  | fsub (f : Fields)
  /-- Row `FMUL` (R259). -/
  | fmul (f : Fields)
  /-- Row `FDIV` (R260). -/
  | fdiv (f : Fields)
  /-- Row `AND` (R261). -/
  | and (f : Fields)
  /-- Row `OR` (R262). -/
  | or (f : Fields)
  /-- Row `XOR` (R263). -/
  | xor (f : Fields)
  /-- Row `NOT` (R264). -/
  | not (f : Fields)
  /-- Row `SHL` (R265). -/
  | shl (f : Fields)
  /-- Row `SHR` (R266). -/
  | shr (f : Fields)
  /-- Row `SHLI` (R267). -/
  | shli (f : Fields)
  /-- Row `SHRI` (R268). -/
  | shri (f : Fields)
  /-- Row `BNE` (R269). -/
  | bne (f : Fields)
  /-- Row `BGT` (R270). -/
  | bgt (f : Fields)
  /-- Row `CALL` (R271). -/
  | call (f : Fields)
  /-- Row `RET` (R272). -/
  | ret (f : Fields)
  /-- Row `LOAD` (R273). -/
  | load (f : Fields)
  /-- Row `STORE` (R274). -/
  | store (f : Fields)
  /-- Row `MOV` (R275). -/
  | mov (f : Fields)
  /-- Row `MOVI` (R276). -/
  | movi (f : Fields)
  /-- Row `MOVHI` (R277). -/
  | movhi (f : Fields)
  /-- Row `IN` (R278). -/
  | inp (f : Fields)
  /-- Row `OUT` (R279). -/
  | outp (f : Fields)
  /-- Row `HALT` (R280). -/
  | halt (f : Fields)
  /-- Row `(undefined)`: an opcode that is no `OPC_<name>` (R251). -/
  | undefined (opc : Opcode) (f : Fields)
deriving DecidableEq, Repr

/-- Which row an instruction stands for, apart from its fields. -/
inductive Row where
  | numbered (k : Opcode)
  | named (m : Mnemonic)
  | undefined (k : Opcode)
deriving DecidableEq, Repr

/-- The row of an instruction. -/
def Instr.row : Instr → Row
  | .opcode0 _ => .numbered 0
  | .opcode1 _ => .numbered 1
  | .opcode2 _ => .numbered 2
  | .opcode3 _ => .numbered 3
  | .opcode4 _ => .numbered 4
  | .opcode5 _ => .numbered 5
  | .opcode6 _ => .numbered 6
  | .opcode7 _ => .numbered 7
  | .opcode8 _ => .numbered 8
  | .opcode9 _ => .numbered 9
  | .opcode10 _ => .numbered 10
  | .opcode11 _ => .numbered 11
  | .opcode12 _ => .numbered 12
  | .opcode13 _ => .numbered 13
  | .opcode14 _ => .numbered 14
  | .opcode15 _ => .numbered 15
  | .opcode16 _ => .numbered 16
  | .opcode17 _ => .numbered 17
  | .opcode18 _ => .numbered 18
  | .opcode19 _ => .numbered 19
  | .opcode20 _ => .numbered 20
  | .opcode21 _ => .numbered 21
  | .opcode22 _ => .numbered 22
  | .opcode23 _ => .numbered 23
  | .opcode24 _ => .numbered 24
  | .opcode25 _ => .numbered 25
  | .opcode26 _ => .numbered 26
  | .opcode27 _ => .numbered 27
  | .opcode28 _ => .numbered 28
  | .opcode29 _ => .numbered 29
  | .opcode30 _ => .numbered 30
  | .opcode31 _ => .numbered 31
  | .add _ => .named .add
  | .sub _ => .named .sub
  | .mul _ => .named .mul
  | .div _ => .named .div
  | .addi _ => .named .addi
  | .fadd _ => .named .fadd
  | .fsub _ => .named .fsub
  | .fmul _ => .named .fmul
  | .fdiv _ => .named .fdiv
  | .and _ => .named .and
  | .or _ => .named .or
  | .xor _ => .named .xor
  | .not _ => .named .not
  | .shl _ => .named .shl
  | .shr _ => .named .shr
  | .shli _ => .named .shli
  | .shri _ => .named .shri
  | .bne _ => .named .bne
  | .bgt _ => .named .bgt
  | .call _ => .named .call
  | .ret _ => .named .ret
  | .load _ => .named .load
  | .store _ => .named .store
  | .mov _ => .named .mov
  | .movi _ => .named .movi
  | .movhi _ => .named .movhi
  | .inp _ => .named .inp
  | .outp _ => .named .outp
  | .halt _ => .named .halt
  | .undefined k _ => .undefined k

/-- The fields of an instruction. -/
def Instr.fields : Instr → Fields
  | .opcode0 f => f
  | .opcode1 f => f
  | .opcode2 f => f
  | .opcode3 f => f
  | .opcode4 f => f
  | .opcode5 f => f
  | .opcode6 f => f
  | .opcode7 f => f
  | .opcode8 f => f
  | .opcode9 f => f
  | .opcode10 f => f
  | .opcode11 f => f
  | .opcode12 f => f
  | .opcode13 f => f
  | .opcode14 f => f
  | .opcode15 f => f
  | .opcode16 f => f
  | .opcode17 f => f
  | .opcode18 f => f
  | .opcode19 f => f
  | .opcode20 f => f
  | .opcode21 f => f
  | .opcode22 f => f
  | .opcode23 f => f
  | .opcode24 f => f
  | .opcode25 f => f
  | .opcode26 f => f
  | .opcode27 f => f
  | .opcode28 f => f
  | .opcode29 f => f
  | .opcode30 f => f
  | .opcode31 f => f
  | .add f => f
  | .sub f => f
  | .mul f => f
  | .div f => f
  | .addi f => f
  | .fadd f => f
  | .fsub f => f
  | .fmul f => f
  | .fdiv f => f
  | .and f => f
  | .or f => f
  | .xor f => f
  | .not f => f
  | .shl f => f
  | .shr f => f
  | .shli f => f
  | .shri f => f
  | .bne f => f
  | .bgt f => f
  | .call f => f
  | .ret f => f
  | .load f => f
  | .store f => f
  | .mov f => f
  | .movi f => f
  | .movhi f => f
  | .inp f => f
  | .outp f => f
  | .halt f => f
  | .undefined _ f => f

/-- The instruction of a row's opcode number (R249): the constructor that the decoder gives. -/
def Instr.numbered (k : Opcode) (f : Fields) : Instr :=
  match k.toNat with
  | 0 => .opcode0 f
  | 1 => .opcode1 f
  | 2 => .opcode2 f
  | 3 => .opcode3 f
  | 4 => .opcode4 f
  | 5 => .opcode5 f
  | 6 => .opcode6 f
  | 7 => .opcode7 f
  | 8 => .opcode8 f
  | 9 => .opcode9 f
  | 10 => .opcode10 f
  | 11 => .opcode11 f
  | 12 => .opcode12 f
  | 13 => .opcode13 f
  | 14 => .opcode14 f
  | 15 => .opcode15 f
  | 16 => .opcode16 f
  | 17 => .opcode17 f
  | 18 => .opcode18 f
  | 19 => .opcode19 f
  | 20 => .opcode20 f
  | 21 => .opcode21 f
  | 22 => .opcode22 f
  | 23 => .opcode23 f
  | 24 => .opcode24 f
  | 25 => .opcode25 f
  | 26 => .opcode26 f
  | 27 => .opcode27 f
  | 28 => .opcode28 f
  | 29 => .opcode29 f
  | 30 => .opcode30 f
  | _ => .opcode31 f

/-- The instruction of a named row (R95). -/
def Instr.named (m : Mnemonic) (f : Fields) : Instr :=
  match m with
  | .add => .add f
  | .sub => .sub f
  | .mul => .mul f
  | .div => .div f
  | .addi => .addi f
  | .fadd => .fadd f
  | .fsub => .fsub f
  | .fmul => .fmul f
  | .fdiv => .fdiv f
  | .and => .and f
  | .or => .or f
  | .xor => .xor f
  | .not => .not f
  | .shl => .shl f
  | .shr => .shr f
  | .shli => .shli f
  | .shri => .shri f
  | .bne => .bne f
  | .bgt => .bgt f
  | .call => .call f
  | .ret => .ret f
  | .load => .load f
  | .store => .store f
  | .mov => .mov f
  | .movi => .movi f
  | .movhi => .movhi f
  | .inp => .inp f
  | .outp => .outp f
  | .halt => .halt f

/-- The instruction of a row with given fields. -/
def Row.instr (r : Row) (f : Fields) : Instr :=
  match r with
  | .numbered k => .numbered k f
  | .named m => .named m f
  | .undefined k => .undefined k f

/-- The opcode number of a row under given parameters (30_encoding.md R95). -/
def Row.opcode (p : Params) : Row → Opcode
  | .numbered k => k
  | .named m => p.opc m
  | .undefined k => k

/-- The opcode number of an instruction under given parameters (30_encoding.md R95). -/
def Instr.opcode (p : Params) (i : Instr) : Opcode := i.row.opcode p

end Sys2Proof
end

