-- ==== Sys2Proof/WellFormed.lean ====
section
/-! DEFINITION. What makes an instruction well formed under given parameters. The types bound every field
(30_encoding.md R81), so the one check left is that the `undefined` row stands only for an opcode value that is no
instruction's number (30_encoding.md R95, 47_instructions.md R251). -/

namespace Sys2Proof

/-- The class whose opcode number is `k`, the first in R95's order (with distinct numbers, the only one). -/
def Params.classOf (p : Params) (k : Opcode) : Option Mnemonic :=
  Mnemonic.all.find? (fun m => p.opc m == k)

/-- `k` is some `OPC_<name>` (R95). -/
def Params.defined (p : Params) (k : Opcode) : Bool := (p.classOf k).isSome

/-- A row is well formed: `undefined` names an opcode that is no `OPC_<name>` (R251). -/
def Row.wf (p : Params) : Row → Bool
  | .numbered _ => true
  | .named _ => true
  | .undefined k => !p.defined k

/-- An instruction is well formed when its row is. -/
def Instr.wf (p : Params) (i : Instr) : Bool := i.row.wf p

end Sys2Proof
end

