-- ==== Sys2Proof/Decode.lean ====
section
/-! DEFINITION. The instruction codec (30_encoding.md R81, R82, R93): splitting a word into fields, the decoder and the
encoder. The opcode numbers of the named instructions are parameters (R86), so the decoder without parameters gives
the row of the opcode's number, and `decodeNamed` gives the named row under given parameters. -/

namespace Sys2Proof

/-- `opc = w[4:0]` (R82). -/
def opcodeField (w : InstrWord) : Opcode := w.extractLsb' 0 5

/-- `rd = w[9:5]`, `rs = w[14:10]`, `rt = w[19:15]`, `imm = w[31:20]` (R82). -/
def unpackFields (w : InstrWord) : Fields where
  rd  := w.extractLsb' 5 5
  rs  := w.extractLsb' 10 5
  rt  := w.extractLsb' 15 5
  imm := w.extractLsb' 20 12

/-- `pack(f) = opc | rd << 5 | rs << 10 | rt << 15 | imm << 20` (R82). -/
def pack (opc : Opcode) (f : Fields) : InstrWord :=
  opc.setWidth 32 ||| (f.rd.setWidth 32 <<< 5) ||| (f.rs.setWidth 32 <<< 10) ||| (f.rt.setWidth 32 <<< 15) |||
    (f.imm.setWidth 32 <<< 20)

/-- The decoder: the row of the word's opcode number, with all its fields (R93: every word decodes). -/
def decode (w : InstrWord) : Instr := .numbered (opcodeField w) (unpackFields w)

/-- The named row of an opcode number under given parameters, `undefined` where there is none (R95, R251). -/
def Params.rowOf (p : Params) (k : Opcode) : Row :=
  match p.classOf k with
  | some m => .named m
  | none => .undefined k

/-- The decoder under given parameters: the named instruction of the word (R95). -/
def decodeNamed (p : Params) (w : InstrWord) : Instr := (p.rowOf (opcodeField w)).instr (unpackFields w)

/-- Why a list of bytes is not decoded. -/
inductive DecodeError where
  /-- Fewer than the four bytes of an instruction word are left; `left` says how many (R80: one length only). -/
  | truncated (left : Nat)
deriving DecidableEq, Repr

/-- The 32-bit word of four bytes, the first at the lowest address: little-endian, a choice of the model that no program
can observe (log entry 11). -/
def wordOfBytes (b0 b1 b2 b3 : Byte) : InstrWord := b3 ++ b2 ++ b1 ++ b0

/-- The `i`-th byte of a word, counted from its least significant. -/
def byteOfWord (w : InstrWord) (i : Nat) : Byte := w.extractLsb' (8 * i) 8

/-- The decoder on bytes: total, with the bytes it leaves, and a truncated word rejected by name. -/
def decodeBytes : List Byte → Except DecodeError (Instr × List Byte)
  | b0 :: b1 :: b2 :: b3 :: rest => .ok (decode (wordOfBytes b0 b1 b2 b3), rest)
  | short => .error (.truncated short.length)

/-- The encoder: the word of an instruction under given parameters (R82, R95). -/
def encode (p : Params) (i : Instr) : InstrWord := pack (i.opcode p) i.fields

/-- The bytes of an instruction word, the first at the lowest address (log entry 11). -/
def wordBytes (w : InstrWord) : List Byte := [byteOfWord w 0, byteOfWord w 1, byteOfWord w 2, byteOfWord w 3]

/-- The instruction word of a table row's bits: `nbits` bits of `w`, every bit above them 0. -/
def tableWord (nbits w : Nat) : InstrWord := BitVec.ofNat 32 (w % 2 ^ nbits)

/-- The instruction that the decoder reads from an opcode-table row's bits. -/
def decodeTableWord (nbits w : Nat) : Option Instr :=
  match decodeBytes (wordBytes (tableWord nbits w)) with
  | .ok (i, _) => some i
  | .error _ => none

end Sys2Proof
end

