-- ==== Sys2Proof/Machine/Tables.lean ====
section
/-! DEFINITION. Control-table entries: the disabled entry `E0` (30_encoding.md R92), the reference entries REF that
47_instructions.md R250 defines for test vectors only, the well-formedness of `CTL` (30_encoding.md R94), the conditions
that R5, R92 and R95 put on the parameters, and the parameters that reset takes. -/

namespace Sys2Proof.Machine

/-- An entry written `ALU(op, src0, src1) · MEM(op, addr, data) · WB(src, dest) · MAP(rd, rs, rt)`
(47_instructions.md, template). -/
def mkEntry (op : AluOp) (src0 src1 : OpSrc) (mop : MemOp) (addr data : MemSrc) (src : WbSrc) (dest : WbDest)
    (rd rs rt : RegMap) : Entry where
  alu := { op := op, src0 := src0, src1 := src1 }
  mem := { op := mop, addr := addr, data := data }
  wb  := { src := src, dest := dest }
  map := { rd := rd, rs := rs, rt := rt }

/-- `E0`, the disabled entry (30_encoding.md R92). -/
def disabledEntry : Entry := mkEntry .none .zero .zero .none .alu .alu .alu .none .off .off .off

/-- REF: the reference entry of each class (47_instructions.md R252 to R280), the spec's own choice for its test vectors
and not the hardware's table (R250). No meaning uses it; statements name it as a hypothesis on `CTL`. -/
def refEntry : Mnemonic → Entry
  | .add => mkEntry .add .rs .rt .none .alu .alu .alu .reg .pass .pass .pass
  | .sub => mkEntry .sub .rs .rt .none .alu .alu .alu .reg .pass .pass .pass
  | .mul => mkEntry .mul .rs .rt .none .alu .alu .alu .reg .pass .pass .pass
  | .div => mkEntry .div .rs .rt .none .alu .alu .alu .reg .pass .pass .pass
  | .addi => mkEntry .add .rs .imm .none .alu .alu .alu .reg .pass .pass .off
  | .fadd => mkEntry .fadd .rs .rt .none .alu .alu .alu .reg .pass .pass .pass
  | .fsub => mkEntry .fsub .rs .rt .none .alu .alu .alu .reg .pass .pass .pass
  | .fmul => mkEntry .fmul .rs .rt .none .alu .alu .alu .reg .pass .pass .pass
  | .fdiv => mkEntry .fdiv .rs .rt .none .alu .alu .alu .reg .pass .pass .pass
  | .and => mkEntry .and .rs .rt .none .alu .alu .alu .reg .pass .pass .pass
  | .or => mkEntry .or .rs .rt .none .alu .alu .alu .reg .pass .pass .pass
  | .xor => mkEntry .xor .rs .rt .none .alu .alu .alu .reg .pass .pass .pass
  | .not => mkEntry .not .rs .zero .none .alu .alu .alu .reg .pass .pass .off
  | .shl => mkEntry .shl .rs .rt .none .alu .alu .alu .reg .pass .pass .pass
  | .shr => mkEntry .shr .rs .rt .none .alu .alu .alu .reg .pass .pass .pass
  | .shli => mkEntry .shl .rs .imm .none .alu .alu .alu .reg .pass .pass .off
  | .shri => mkEntry .shr .rs .imm .none .alu .alu .alu .reg .pass .pass .off
  | .bne => mkEntry .ne .rd .rt .none .alu .alu .brCond .pc .pass .pass .pass
  | .bgt => mkEntry .gt .rd .rt .none .alu .alu .brCond .pc .pass .pass .pass
  | .call => mkEntry .add .rs .zero .store .linkRel .pc4 .alu .pc .off .pass .off
  | .ret => mkEntry .none .zero .zero .load .linkRel .alu .lsu .pc .off .off .off
  | .load => mkEntry .add .rs .imm .load .alu .rs .lsu .reg .pass .pass .off
  | .store => mkEntry .add .rt .imm .store .alu .rs .alu .none .off .pass .pass
  | .mov => mkEntry .add .rs .zero .none .alu .alu .alu .reg .pass .pass .off
  | .movi => mkEntry .add .zero .imm .none .alu .alu .alu .reg .pass .off .off
  | .movhi => mkEntry .sethi .rd .imm .none .alu .alu .alu .reg .pass .off .off
  | .inp => disabledEntry
  | .outp => disabledEntry
  | .halt => disabledEntry

/-- `CTL[k]`: a pure table read (30_encoding.md R87, 42_decode_fsm.md R154). -/
def entryOf (p : Params) (k : Opcode) : Entry := p.ctl[k.toNat]'k.isLt

/-- The opcode numbers are distinct (30_encoding.md R95). -/
def opcodesDistinct (p : Params) : Bool := decide (Mnemonic.all.map p.opc).Nodup

/-- Every opcode that is no instruction's number has the disabled entry (30_encoding.md R92). -/
def undefinedDisabled (p : Params) : Bool :=
  (List.finRange 32).all fun k =>
    p.defined (BitVec.ofFin k) || entryOf p (BitVec.ofFin k) == disabledEntry

/-- The parameters are ones the spec allows (R92, R95). Capacities are legal by their form (log entry 7), and R94 is not
among them: a table that fails it is allowed and makes the writing instruction fatal (log entry 8). -/
def legalParams (p : Params) : Bool := opcodesDistinct p && undefinedDisabled p

/-- Well-formedness of `CTL` (30_encoding.md R94): an entry that writes a register maps its destination slot. -/
def tableWellFormed (p : Params) : Bool :=
  (List.finRange 32).all fun k =>
    (entryOf p (BitVec.ofFin k)).wb.dest != .reg || (entryOf p (BitVec.ofFin k)).map.rd != .off

/-- Every class has its reference entry: `CTL = REF` up to the opcode numbers (47_instructions.md R250). -/
def tableIsRef (p : Params) : Bool := Mnemonic.all.all fun m => entryOf p (p.opc m) == refEntry m

/-- A legal set of parameters: the classes numbered in R95's order, their REF entries, one cell in each memory. It is no
chip's; it stands where the unknown parameters are not legal, and in tests (log entry 3). -/
def exampleParams : Params where
  ctl           := Vector.ofFn fun k => match Mnemonic.all[k.val]? with
                                        | some m => refEntry m
                                        | none => disabledEntry
  opcodes       := Vector.ofFn fun k => BitVec.ofNat 5 k.val
  guardValue    := 0
  aluSentinel   := 0
  linkIndex     := 0
  imemCellsPred := 0
  dmemCellsPred := 0

/-- The parameters themselves where they are legal. -/
def legalised (p : Params) : Params := if legalParams p then p else exampleParams

end Sys2Proof.Machine

namespace Sys2Proof

/-- The parameters that reset takes: unknown, and legal (log entry 3). -/
def Config.params : Params := Machine.legalised Config.rawParams

end Sys2Proof
end

