-- ==== Sys2Proof/Machine/State.lean ====
section
/-! DEFINITION. The committed state of the CORE between two ticks (10_state.md R20), the reasons a run stops
(60_exceptions.md R301 to R303) and the state after reset (R38, 70_reset_and_hazards.md R330). -/

namespace Sys2Proof.Machine

/-- The stage register's values (10_state.md R27). -/
inductive Stage where
  | fetch | decode | execute | memory | writeback
deriving DecidableEq, Repr, Inhabited

/-- A memory: the bytes of its cells that are not 0, addresses strictly rising. Cell `i` is the bytes at `8 * i` to
`8 * i + 7` (log entry 11). -/
abbrev Memory := List Host.Cell

/-- What a byte that no entry lists reads as: 0, since both memories are all zero until the image load and the load
fills the rest of a memory with zero cells (70_reset_and_hazards.md R330, R333; log entry 12). -/
def unlistedByte : Byte := 0

/-- The canonical form: addresses strictly rising, and no entry equal to what an unlisted byte reads as. -/
abbrev Memory.wf (m : Memory) : Prop := m.Pairwise (fun a b => a.1 < b.1) ∧ ∀ c ∈ m, c.2 ≠ unlistedByte

/-- The number of register-file entries, `NREG` (R5): 32 general registers and the guard. -/
abbrev numRegs : Nat := 33

/-- `GUARD_INDEX` (R5, 10_state.md R21). -/
abbrev guardIndex : Fin numRegs := 32

/-- The committed state of the CORE between two ticks (10_state.md R20). -/
@[ext]
structure State where
  /-- The parameters of R5 that are plain data. Not state of the CORE (10_state.md R37): no tick changes them. The model
  carries them here so that its statements hold for every value of them (log entry 2). -/
  params   : Params
  /-- The program counter of the fetch unit (10_state.md R25). -/
  pc       : Word
  /-- The registered PC write of the writeback unit (R26). -/
  redirect : Option Word
  /-- The stage register of the decode unit (R27). -/
  stage    : Stage
  /-- The register file: `r0`..`r31` and the guard register at index 32 (R21 to R24). -/
  x        : Vector Word numRegs
  /-- The ALU's output register (R28). -/
  aluOut   : Word
  /-- The registered read output of the data memory (R29). -/
  memRdata : Word
  /-- The instruction memory (20_memory.md R50 to R52). -/
  imem     : Memory
  /-- The data memory (20_memory.md R50, R53). -/
  dmem     : Memory
  /-- The halt flag (10_state.md R30). -/
  stop     : Bool
  /-- The tick counter (R31). -/
  clock    : Nat
deriving DecidableEq, Repr

/-- The fatal state `Fatal(kind, device, info, s)` (60_exceptions.md R301): one constructor per kind, with the recorded
`info` and the committed state `s` at the start of the abandoned tick. Every one is safe: the machine of the spec stops
there too. -/
inductive Fault where
  /-- Code 1, device `instruction memory` in the raise (20_memory.md R54), fetch_unit in R302: the effective fetch address is out of range (R302). Raised by any tick. Safe: as the spec says. -/
  | imemRange (efa : Word) (s : State)
  /-- Code 2, device `data memory` in the raise (20_memory.md R57), lsu in R302: a load's read address or a store's address is out of range (R302). Raised by the Memory tick. Safe. -/
  | dmemRange (ea : Word) (s : State)
  /-- Code 3, alu: `DIV` with divisor 0 (R302, 44_alu.md R186). Raised by the Execute tick. Safe. -/
  | divZero (a b : Word) (s : State)
  /-- Code 4, alu: `DIV` of `-2^63` by `-1` (R302, 44_alu.md R186). Raised by the Execute tick. Safe. -/
  | divOverflow (a b : Word) (s : State)
  /-- Code 5, device `register file` in the raise (43_regfile.md R172), regfile in R302: a register write to the guard (R302, 43_regfile.md R172). Raised by the Writeback tick. Safe. -/
  | guardWrite (opc : Opcode) (s : State)
  /-- Code 6, a multiplexer: a selector outside its enum (R302). Nothing raises it: every selector of the model is one of
  the enums, so none is out of range (40_signal_kernel.md R121). Safe. -/
  | muxRange (selector : Nat) (s : State)
  /-- Code 7, `BuildImage`: an odd number of instruction records (R303). Raised by the host's builder. Safe. -/
  | imageOdd (count : Nat) (s : State)
  /-- Code 8, `load`: an image with more cells than its memory (R303). Raised by the host's load. Safe. -/
  | imageTooBig (length : Nat) (s : State)
deriving DecidableEq, Repr

/-- What the model does not accept. -/
inductive Refusal where
  /-- An instruction without a meaning. Nothing raises it: every instruction has its meaning. Safe. -/
  | notModelled (mnemonic : String)
  /-- The host asks for an image load after the first tick (70_reset_and_hazards.md R332; 93_implementation_defined.md
  I26: refuse). Raised by the host's load. Safe. -/
  | lateLoad (clock : Nat)
  /-- The host asks for a capacity that is not a multiple of 8 or is below 8 (93_implementation_defined.md I7: refuse).
  Raised by the host's configuration. Safe. -/
  | badCapacity (bytes : Nat)
  /-- The host configures parameters that break 30_encoding.md R92 or R95. Raised by the host's configuration. Safe. -/
  | illegalParams
deriving DecidableEq, Repr

/-- The register file at reset: general registers 0, the guard at its value (10_state.md R38). -/
def resetRegs (p : Params) : Vector Word numRegs := (Vector.replicate numRegs 0).set guardIndex p.guardValue

/-- The state after `reset()` under given parameters, both memories all zero (70_reset_and_hazards.md R330). -/
def State.resetWith (p : Params) : State where
  params   := p
  pc       := 0
  redirect := none
  stage    := .fetch
  x        := resetRegs p
  aluOut   := 0
  memRdata := 0
  imem     := []
  dmem     := []
  stop     := false
  clock    := 0

/-- The state after `reset()` (R330), under the hardware's parameters. -/
def State.reset : State := .resetWith Config.params

end Sys2Proof.Machine
end

