-- ==== Sys2Proof/Machine/Kernel.lean ====
section
/-! DEFINITION. The two primitives every block is built from (40_signal_kernel.md R110): the clocked register, with its
pending and committed values, and the combinational wire. -/

namespace Sys2Proof.Machine

/-- A clocked_register of type `α` (40_signal_kernel.md R111). -/
structure ClockedReg (α : Type) where
  committed : α
  pending   : α
deriving DecidableEq, Repr

/-- A register between ticks: the pending value equals the committed one (10_state.md R35). -/
def ClockedReg.settled {α : Type} (v : α) : ClockedReg α := { committed := v, pending := v }

/-- `read` returns the committed value (R111). -/
def ClockedReg.read {α : Type} (r : ClockedReg α) : α := r.committed

/-- `write` sets the pending value and never affects `read` until an edge (R112). -/
def ClockedReg.write {α : Type} (r : ClockedReg α) (v : α) : ClockedReg α := { r with pending := v }

/-- A write gated by an enable. -/
def ClockedReg.writeIf {α : Type} (r : ClockedReg α) (enable : Bool) (v : α) : ClockedReg α :=
  if enable then r.write v else r

/-- The clock edge: committed takes pending (R112). -/
def ClockedReg.edge {α : Type} (r : ClockedReg α) : ClockedReg α := { r with committed := r.pending }

/-- A combinational_wire: a pure function of the committed state, never stored (R113). -/
abbrev Wire (α : Type) := State → α

end Sys2Proof.Machine
end

