-- ==== Sys2Proof/Machine/Memory.lean ====
section
/-! DEFINITION. The memory devices (20_memory.md): one byte, one cell, the selection of a cell and of an instruction
half by a byte address, and the image load. -/

namespace Sys2Proof.Machine

/-- The byte at a byte address. -/
def readByte (m : Memory) (a : Nat) : Byte :=
  match m with
  | [] => unlistedByte
  | c :: rest => if c.1 = a then c.2 else readByte rest a

/-- An entry put in front, unless it is what an unlisted byte reads as. -/
def consByte (a : Nat) (v : Byte) (rest : Memory) : Memory :=
  if v = unlistedByte then rest else (a, v) :: rest

/-- A write of one byte, which keeps the canonical form. -/
def writeByte (m : Memory) (a : Nat) (v : Byte) : Memory :=
  match m with
  | [] => consByte a v []
  | c :: rest =>
    if a < c.1 then consByte a v (c :: rest)
    else if a = c.1 then consByte a v rest
    else c :: writeByte rest a v

/-- The byte address of a cell's first byte. -/
def cellBase (i : Nat) : Nat := 8 * i

/-- Byte `k` of a cell's value, counted from the least significant (log entry 11). -/
def cellByte (v : Word) (k : Nat) : Byte := v.extractLsb' (8 * k) 8

/-- The cell of index `i`: its eight bytes, the least significant at the lowest address (20_memory.md R51, log entry 11). -/
def readCell (m : Memory) (i : Nat) : Word :=
  readByte m (cellBase i + 7) ++ readByte m (cellBase i + 6) ++ readByte m (cellBase i + 5) ++
    readByte m (cellBase i + 4) ++ readByte m (cellBase i + 3) ++ readByte m (cellBase i + 2) ++
    readByte m (cellBase i + 1) ++ readByte m (cellBase i)

/-- The first `n` bytes of a value written at consecutive addresses. -/
def writeBytes (m : Memory) (base : Nat) (v : Word) : Nat → Memory
  | 0 => m
  | n + 1 => writeByte (writeBytes m base v n) (base + n) (cellByte v n)

/-- The write of the whole cell of index `i` (20_memory.md R59, R63). -/
def writeCell (m : Memory) (i : Nat) (v : Word) : Memory := writeBytes m (cellBase i) v 8

/-- The instruction-memory cell index of an address, `a >> 3` (R54). -/
def imemIndex (a : Word) : Nat := (a >>> 3).toNat

/-- The data-memory cell index of an address, `a >> DADDR_SHIFT` (R57). -/
def dmemIndex (a : Word) : Nat := (a >>> Config.daddrShift).toNat

/-- The instruction address is out of range (R54). -/
def imemOut (p : Params) (a : Word) : Bool := decide (p.imemCells ≤ imemIndex a)

/-- The data address is out of range (R57). -/
def dmemOut (p : Params) (a : Word) : Bool := decide (p.dmemCells ≤ dmemIndex a)

/-- `IMemRead(a)`: the low or the high half of the cell, by bit 2 of the address (R55). -/
def imemRead (m : Memory) (a : Word) : InstrWord :=
  let c := readCell m (imemIndex a)
  if a.getLsbD 2 then c.extractLsb' 32 32 else c.extractLsb' 0 32

/-- `MemRead(a, 8)`: the whole cell that holds the byte address (R58). -/
def memRead (m : Memory) (a : Word) : Word := readCell m (dmemIndex a)

/-- `MemWrite(a, 8, v)`: the whole cell that holds the byte address takes `v` (R59). -/
def memWrite (m : Memory) (a : Word) (v : Word) : Memory := writeCell m (dmemIndex a) v

/-- `load(image)` into a memory, from cell `i` on: "overwrites the array in address order" (70_reset_and_hazards.md
R333). -/
def loadCells (m : Memory) (i : Nat) : List Word → Memory
  | [] => m
  | v :: rest => loadCells (writeCell m i v) (i + 1) rest

/-- The contents of a memory after the load of an image: its cells from 0 on, then zero cells (R333). -/
def imageMemory (image : List Word) : Memory := loadCells [] 0 image

end Sys2Proof.Machine
end

