-- ==== Sys2Proof/Machine/Operands.lean ====
section
/-! DEFINITION. The operands of a tick: the decoded control record, the register mapping, the register read ports, the
ALU's and the LSU's operand multiplexers (30_encoding.md R85 to R91, 43_regfile.md R170, 44_alu.md R181, 45_lsu.md R211). Each
value is a combinational wire over the committed state (40_signal_kernel.md R113). -/

namespace Sys2Proof.Machine

/-- The decode unit's combinational outputs for an instruction: opcode, fields and control-table entry
(42_decode_fsm.md R150, R153, R154). -/
structure Decoded where
  opc    : Opcode
  entry  : Entry
  fields : Fields
deriving DecidableEq, Repr

/-- The decode unit's outputs for an opcode number with its fields: `c = CTL[opc]` (R154). -/
def lookup (p : Params) (k : Opcode) (f : Fields) : Decoded := { opc := k, entry := entryOf p k, fields := f }

/-- The effective fetch address: the override if present, else the PC (41_fetch_unit.md R131). -/
def efa : Wire Word := fun s => s.redirect.getD s.pc

/-- `pc_plus_4 = efa + 4` modulo 2^64 (41_fetch_unit.md R134). -/
def pcPlus4 : Wire Word := fun s => efa s + 4

/-- `zext_64(imm)` (30_encoding.md R85). -/
def immValue (imm : Imm) : Word := imm.setWidth 64

/-- A raw register number as an index of the register file. -/
def regIndex (r : RegNo) : Fin numRegs := ⟨r.toNat, Nat.lt_trans r.isLt (by decide)⟩

/-- `mapidx`: the mapped index of a slot with a raw field value (30_encoding.md R91). -/
def mapIndex (p : Params) (m : RegMap) (f : RegNo) : Fin numRegs :=
  match m with
  | .pass => regIndex f
  | .link => regIndex p.linkIndex
  | .off => guardIndex

/-- `rd_i` (42_decode_fsm.md R155). -/
def rdIndex (p : Params) (d : Decoded) : Fin numRegs := mapIndex p d.entry.map.rd d.fields.rd

/-- `rs_i` (42_decode_fsm.md R155). -/
def rsIndex (p : Params) (d : Decoded) : Fin numRegs := mapIndex p d.entry.map.rs d.fields.rs

/-- `rt_i` (42_decode_fsm.md R155). -/
def rtIndex (p : Params) (d : Decoded) : Fin numRegs := mapIndex p d.entry.map.rt d.fields.rt

/-- A read port: the committed value of an entry, always (43_regfile.md R170). -/
def readReg (s : State) (i : Fin numRegs) : Word := s.x[i]

/-- The general register of a raw number. -/
def readGpr (s : State) (r : RegNo) : Word := readReg s (regIndex r)

/-- An entry written (43_regfile.md R171). -/
def writeReg (x : Vector Word numRegs) (i : Fin numRegs) (v : Word) : Vector Word numRegs := x.set i v

/-- `vd`, `vs`, `vt` (43_regfile.md R170). -/
def rdValue (d : Decoded) : Wire Word := fun s => readReg s (rdIndex s.params d)

/-- The source-register value (43_regfile.md R170). -/
def rsValue (d : Decoded) : Wire Word := fun s => readReg s (rsIndex s.params d)

/-- The second-source-register value (43_regfile.md R170). -/
def rtValue (d : Decoded) : Wire Word := fun s => readReg s (rtIndex s.params d)

/-- `opnd`: the ALU's operand multiplexer (44_alu.md R181). -/
def aluOperand (d : Decoded) (src : OpSrc) : Wire Word := fun s =>
  match src with
  | .rd => rdValue d s
  | .rs => rsValue d s
  | .rt => rtValue d s
  | .imm => immValue d.fields.imm
  | .pc => s.pc
  | .zero => 0

/-- `LINK_REL(x[LINK_INDEX], imm)`, the link-register-relative operand (45_lsu.md R212). -/
def linkRelative (imm : Imm) : Wire Word := fun s => Config.linkRel (readGpr s s.params.linkIndex) imm

/-- `msrc`: the LSU's address and data multiplexer (45_lsu.md R211). -/
def memOperand (d : Decoded) (src : MemSrc) : Wire Word := fun s =>
  match src with
  | .linkRel => linkRelative d.fields.imm s
  | .rs => rsValue d s
  | .alu => s.aluOut
  | .pc4 => pcPlus4 s

/-- The effective address `ea` (45_lsu.md R211). -/
def effAddr (d : Decoded) : Wire Word := memOperand d d.entry.mem.addr

/-- The store data `wdata` (45_lsu.md R211). -/
def storeData (d : Decoded) : Wire Word := memOperand d d.entry.mem.data

end Sys2Proof.Machine
end

