-- ==== Sys2Proof/Machine/Ops.lean ====
section
/-! DEFINITION. One tick of the CORE (40_signal_kernel.md R118) for a decoded instruction: the settle phase, in which each
device writes the pending values of its registers, the fatal checks in the order of R118, and the clock edge. Then the ticks
of an instruction cycle (47_instructions.md R249).

The CORE has no exception to take and no return from one (60_exceptions.md R300, R308, R309). What stands in their place
is the one shared way a tick enters the fatal state: `tickOf` answers a fault that carries the kind, the info and the committed
state before the tick, and commits nothing (R301). -/

namespace Sys2Proof.Machine

/-! ### decode_fsm: the stage sequencer -/

/-- `succ` (42_decode_fsm.md R151). -/
def nextStage : Stage → Stage
  | .fetch => .decode
  | .decode => .execute
  | .execute => .memory
  | .memory => .writeback
  | .writeback => .fetch

/-- The stage enable of a stage: exactly one is true in a tick (42_decode_fsm.md R152). -/
def enabled (st : Stage) : Wire Bool := fun s => s.stage == st

/-! ### alu -/

/-- The value that the ALU's register takes at the edge: computed in the Execute tick only, held otherwise (44_alu.md R180). -/
def aluNext (d : Decoded) : Wire (Except AluFault Word) := fun s =>
  if enabled .execute s then
    alu s.params d.entry.alu.op (aluOperand d d.entry.alu.src0 s) (aluOperand d d.entry.alu.src1 s)
  else .ok s.aluOut

/-- The fatal condition of an ALU fault, with the operand pair as info (60_exceptions.md R302). -/
def aluFatal (d : Decoded) (r : AluFault) (s : State) : Fault :=
  let a := aluOperand d d.entry.alu.src0 s
  let b := aluOperand d d.entry.alu.src1 s
  match r with
  | .divZero => .divZero a b s
  | .divOverflow => .divOverflow a b s

/-! ### lsu -/

/-- The read address: `ea` for a load in the Memory tick, else the neutral address (45_lsu.md R215). -/
def readAddr (d : Decoded) : Wire Word := fun s =>
  if enabled .memory s && d.entry.mem.op == .load then effAddr d s else Config.neutralAddr

/-- The write port is driven (45_lsu.md R214). -/
def doStore (d : Decoded) : Wire Bool := fun s => enabled .memory s && d.entry.mem.op == .store

/-! ### writeback_mux -/

/-- The branch-conditional value (46_writeback.md R232). -/
def branchValue (d : Decoded) : Wire Word := fun s => if nonzero s.aluOut then rsValue d s else pcPlus4 s

/-- The result (46_writeback.md R231). -/
def result (d : Decoded) : Wire Word := fun s =>
  match d.entry.wb.src with
  | .alu => s.aluOut
  | .lsu => s.memRdata
  | .brCond => branchValue d s

/-- `rf_w`, the register-file write: the mapped destination index and the result, in the Writeback tick of an instruction
whose destination is the register file (46_writeback.md R233). -/
def regWrite (d : Decoded) : Wire (Option (Fin numRegs × Word)) := fun s =>
  if enabled .writeback s && d.entry.wb.dest == .reg then some (rdIndex s.params d, result d s) else none

/-- A register write would reach the guard (43_regfile.md R172). -/
def guardHit (d : Decoded) : Wire Bool := fun s => (regWrite d s).any (fun w => w.1 == guardIndex)

/-- The register file after the write port's commit: at most one entry changes (43_regfile.md R171). -/
def applyRegWrite (x : Vector Word numRegs) (w : Option (Fin numRegs × Word)) : Vector Word numRegs :=
  match w with
  | some (i, v) => writeReg x i v
  | none => x

/-- The next instruction address that the writeback unit chooses (46_writeback.md R234, R235). -/
def nextPc (d : Decoded) : Wire Word := fun s => if d.entry.wb.dest == .pc then result d s else pcPlus4 s

/-- `pc_w` (46_writeback.md R234). -/
def pcWrite (d : Decoded) : Wire (Option Word) := fun s => if enabled .writeback s then some (nextPc d s) else none

/-- The halt opcode is in Writeback (46_writeback.md R236, 30_encoding.md R96). -/
def haltsNow (d : Decoded) : Wire Bool := fun s => enabled .writeback s && decide (d.opc = s.params.opc .halt)

/-! ### The two phases of a tick -/

/-- The clocked registers of the CORE (40_signal_kernel.md R117). The instruction memory is not among them: its write port
is never driven (20_memory.md R52). -/
structure Registers where
  pc       : ClockedReg Word
  redirect : ClockedReg (Option Word)
  stage    : ClockedReg Stage
  x        : ClockedReg (Vector Word numRegs)
  aluOut   : ClockedReg Word
  memRdata : ClockedReg Word
  dmem     : ClockedReg Memory
  stop     : ClockedReg Bool
  clock    : ClockedReg Nat

/-- The registers at the start of a tick (10_state.md R35). -/
def registersOf (s : State) : Registers where
  pc       := .settled s.pc
  redirect := .settled s.redirect
  stage    := .settled s.stage
  x        := .settled s.x
  aluOut   := .settled s.aluOut
  memRdata := .settled s.memRdata
  dmem     := .settled s.dmem
  stop     := .settled s.stop
  clock    := .settled s.clock

/-- `do_function()`, the settle phase: each device writes the pending values of its registers (40_signal_kernel.md R116,
R117). `aluV` is the value that the ALU computes, or holds, in this tick. -/
def settle (d : Decoded) (aluV : Word) (s : State) (r : Registers) : Registers where
  pc       := r.pc.writeIf (enabled .fetch s) (efa s)
  redirect := r.redirect.write (pcWrite d s)
  stage    := r.stage.write (nextStage s.stage)
  x        := r.x.write (applyRegWrite s.x (regWrite d s))
  aluOut   := r.aluOut.write aluV
  memRdata := r.memRdata.write (memRead s.dmem (readAddr d s))
  dmem     := r.dmem.writeIf (doStore d s) (memWrite s.dmem (effAddr d s) (storeData d s))
  stop     := r.stop.writeIf (haltsNow d s) true
  clock    := r.clock.write (s.clock + 1)

/-- `on_clock_edge()`: every register's pending value commits, at once (40_signal_kernel.md R115, R116). -/
def clockEdge (r : Registers) : Registers where
  pc       := r.pc.edge
  redirect := r.redirect.edge
  stage    := r.stage.edge
  x        := r.x.edge
  aluOut   := r.aluOut.edge
  memRdata := r.memRdata.edge
  dmem     := r.dmem.edge
  stop     := r.stop.edge
  clock    := r.clock.edge

/-- The committed state that the registers hold. -/
def committedState (s : State) (r : Registers) : State where
  params   := s.params
  pc       := r.pc.read
  redirect := r.redirect.read
  stage    := r.stage.read
  x        := r.x.read
  aluOut   := r.aluOut.read
  memRdata := r.memRdata.read
  imem     := s.imem
  dmem     := r.dmem.read
  stop     := r.stop.read
  clock    := r.clock.read

/-- The committed state after the edge (40_signal_kernel.md R115, R118). -/
def nextState (d : Decoded) (aluV : Word) (s : State) : State :=
  committedState s (clockEdge (settle d aluV s (registersOf s)))

/-- One tick of the CORE with the instruction `d` on the decode unit's outputs: the checks in the order of R118 (60_exceptions.md
R304), then the edge. While `stop` is true no tick runs (40_signal_kernel.md R120, log entry 9). -/
def tickOf (d : Decoded) (s : State) : Host.Outcome State Fault Refusal :=
  if s.stop then .next s
  else if imemOut s.params (efa s) then .fault (.imemRange (efa s) s)
  else
    match aluNext d s with
    | .error r => .fault (aluFatal d r s)
    | .ok v =>
      if dmemOut s.params (readAddr d s) then .fault (.dmemRange (readAddr d s) s)
      else if doStore d s && dmemOut s.params (effAddr d s) then .fault (.dmemRange (effAddr d s) s)
      else if guardHit d s then .fault (.guardWrite d.opc s)
      else .next (nextState d v s)

/-! ### The instruction cycle -/

/-- The ticks from a stage to the end of the instruction cycle (47_instructions.md R249). -/
def ticksLeft : Stage → Nat
  | .fetch => 5
  | .decode => 4
  | .execute => 3
  | .memory => 2
  | .writeback => 1

/-- `n` ticks with the same instruction, up to the first fatal condition. -/
def runTicks (d : Decoded) : Nat → State → Host.Outcome State Fault Refusal
  | 0, s => .next s
  | n + 1, s =>
    match tickOf d s with
    | .next t => runTicks d n t
    | .fault r => .fault r
    | .refused r => .refused r

/-- The instruction cycle: the ticks from the state's stage to the edge of Writeback, with the instruction `d`. From the
Fetch stage it is all five ticks, `exec(A)` of 47_instructions.md R249 (log entries 1 and 21). -/
def runCycle (d : Decoded) (s : State) : Host.Outcome State Fault Refusal := runTicks d (ticksLeft s.stage) s

end Sys2Proof.Machine
end

