-- ==== Sys2Proof/Machine/FloatArith.lean ====
section
/-! DEFINITION. Floating-point arithmetic: FADD, FSUB, FMUL, FDIV (47_instructions.md R257 to R260). Each meaning is the instruction cycle with the control-table entry
of the class's opcode number: "Each opcode's behavior is fully determined by its three control-table entries plus its
register-mapping-table entry" (30_encoding.md R86), whatever the table is (47_instructions.md R249, R250; log entry 15). The
pseudocode quoted at each is the spec's for the REF entry. -/

namespace Sys2Proof.Machine

/-- FADD (R257): `CTL[OPC_FADD]` by R249. Under its REF entry, `x[rd] <- bits(f64(x[rs]) + f64(x[rt]))`. -/
def execFadd (f : Fields) (s : State) : Host.Outcome State Fault Refusal :=
  runCycle (lookup s.params (s.params.opc .fadd) f) s

/-- FSUB (R258): `CTL[OPC_FSUB]` by R249. Under its REF entry, `x[rd] <- bits(f64(x[rs]) - f64(x[rt]))`. -/
def execFsub (f : Fields) (s : State) : Host.Outcome State Fault Refusal :=
  runCycle (lookup s.params (s.params.opc .fsub) f) s

/-- FMUL (R259): `CTL[OPC_FMUL]` by R249. Under its REF entry, `x[rd] <- bits(f64(x[rs]) * f64(x[rt]))`. -/
def execFmul (f : Fields) (s : State) : Host.Outcome State Fault Refusal :=
  runCycle (lookup s.params (s.params.opc .fmul) f) s

/-- FDIV (R260): `CTL[OPC_FDIV]` by R249. Under its REF entry, `x[rd] <- bits(f64(x[rs]) / f64(x[rt]))`. -/
def execFdiv (f : Fields) (s : State) : Host.Outcome State Fault Refusal :=
  runCycle (lookup s.params (s.params.opc .fdiv) f) s

end Sys2Proof.Machine
end

