-- ==== Sys2Proof/Machine/IntegerArith.lean ====
section
/-! DEFINITION. Integer arithmetic: ADD, SUB, MUL, DIV, ADDI (47_instructions.md R252 to R256). Each meaning is the instruction cycle with the control-table entry
of the class's opcode number: "Each opcode's behavior is fully determined by its three control-table entries plus its
register-mapping-table entry" (30_encoding.md R86), whatever the table is (47_instructions.md R249, R250; log entry 15). The
pseudocode quoted at each is the spec's for the REF entry. -/

namespace Sys2Proof.Machine

/-- ADD (R252): `CTL[OPC_ADD]` by R249. Under its REF entry, `x[rd] <- x[rs] + x[rt]`. -/
def execAdd (f : Fields) (s : State) : Host.Outcome State Fault Refusal :=
  runCycle (lookup s.params (s.params.opc .add) f) s

/-- SUB (R253): `CTL[OPC_SUB]` by R249. Under its REF entry, `x[rd] <- x[rs] - x[rt]`. -/
def execSub (f : Fields) (s : State) : Host.Outcome State Fault Refusal :=
  runCycle (lookup s.params (s.params.opc .sub) f) s

/-- MUL (R254): `CTL[OPC_MUL]` by R249. Under its REF entry, `x[rd] <- low64(s64(x[rs]) * s64(x[rt]))`. -/
def execMul (f : Fields) (s : State) : Host.Outcome State Fault Refusal :=
  runCycle (lookup s.params (s.params.opc .mul) f) s

/-- DIV (R255): `CTL[OPC_DIV]` by R249. Under its REF entry, `x[rd] <- trunc(s64(x[rs]) / s64(x[rt]))`, fatal on two operand pairs. -/
def execDiv (f : Fields) (s : State) : Host.Outcome State Fault Refusal :=
  runCycle (lookup s.params (s.params.opc .div) f) s

/-- ADDI (R256): `CTL[OPC_ADDI]` by R249. Under its REF entry, `x[rd] <- x[rs] + zext_64(imm)`. -/
def execAddi (f : Fields) (s : State) : Host.Outcome State Fault Refusal :=
  runCycle (lookup s.params (s.params.opc .addi) f) s

end Sys2Proof.Machine
end

