-- ==== Sys2Proof/Machine/IoHalt.lean ====
section
/-! DEFINITION. Input and output stubs and halt: IN, OUT, HALT (47_instructions.md R278 to R280). Each meaning is the instruction cycle with the control-table entry
of the class's opcode number: "Each opcode's behavior is fully determined by its three control-table entries plus its
register-mapping-table entry" (30_encoding.md R86), whatever the table is (47_instructions.md R249, R250; log entry 15). The
pseudocode quoted at each is the spec's for the REF entry. -/

namespace Sys2Proof.Machine

/-- IN (R278): `CTL[OPC_IN]` by R249. Under its REF entry, no register, cell or device changes, `alu_out <- ALU_SENTINEL`. -/
def execInp (f : Fields) (s : State) : Host.Outcome State Fault Refusal :=
  runCycle (lookup s.params (s.params.opc .inp) f) s

/-- OUT (R279): `CTL[OPC_OUT]` by R249. Under its REF entry, no register, cell or device changes, `alu_out <- ALU_SENTINEL`. -/
def execOutp (f : Fields) (s : State) : Host.Outcome State Fault Refusal :=
  runCycle (lookup s.params (s.params.opc .outp) f) s

/-- HALT (R280): `CTL[OPC_HALT]` by R249. Under its REF entry, `stop <- true` at the Writeback edge. The halt is recognised by the opcode number under any entry (30_encoding.md R96). -/
def execHalt (f : Fields) (s : State) : Host.Outcome State Fault Refusal :=
  runCycle (lookup s.params (s.params.opc .halt) f) s

end Sys2Proof.Machine
end

