-- ==== Sys2Proof/Machine/LoadStore.lean ====
section
/-! DEFINITION. Load and store: LOAD, STORE (47_instructions.md R273, R274). Each meaning is the instruction cycle with the control-table entry
of the class's opcode number: "Each opcode's behavior is fully determined by its three control-table entries plus its
register-mapping-table entry" (30_encoding.md R86), whatever the table is (47_instructions.md R249, R250; log entry 15). The
pseudocode quoted at each is the spec's for the REF entry. -/

namespace Sys2Proof.Machine

/-- LOAD (R273): `CTL[OPC_LOAD]` by R249. Under its REF entry, `x[rd] <- MemRead(x[rs] + imm, 8)`. -/
def execLoad (f : Fields) (s : State) : Host.Outcome State Fault Refusal :=
  runCycle (lookup s.params (s.params.opc .load) f) s

/-- STORE (R274): `CTL[OPC_STORE]` by R249. Under its REF entry, `MemWrite(x[rt] + imm, 8, x[rs])`. -/
def execStore (f : Fields) (s : State) : Host.Outcome State Fault Refusal :=
  runCycle (lookup s.params (s.params.opc .store) f) s

end Sys2Proof.Machine
end

