-- ==== Sys2Proof/Machine/Logic.lean ====
section
/-! DEFINITION. Logic: AND, OR, XOR, NOT (47_instructions.md R261 to R264). Each meaning is the instruction cycle with the control-table entry
of the class's opcode number: "Each opcode's behavior is fully determined by its three control-table entries plus its
register-mapping-table entry" (30_encoding.md R86), whatever the table is (47_instructions.md R249, R250; log entry 15). The
pseudocode quoted at each is the spec's for the REF entry. -/

namespace Sys2Proof.Machine

/-- AND (R261): `CTL[OPC_AND]` by R249. Under its REF entry, `x[rd] <- x[rs] & x[rt]`. -/
def execAnd (f : Fields) (s : State) : Host.Outcome State Fault Refusal :=
  runCycle (lookup s.params (s.params.opc .and) f) s

/-- OR (R262): `CTL[OPC_OR]` by R249. Under its REF entry, `x[rd] <- x[rs] | x[rt]`. -/
def execOr (f : Fields) (s : State) : Host.Outcome State Fault Refusal :=
  runCycle (lookup s.params (s.params.opc .or) f) s

/-- XOR (R263): `CTL[OPC_XOR]` by R249. Under its REF entry, `x[rd] <- x[rs] ^ x[rt]`. -/
def execXor (f : Fields) (s : State) : Host.Outcome State Fault Refusal :=
  runCycle (lookup s.params (s.params.opc .xor) f) s

/-- NOT (R264): `CTL[OPC_NOT]` by R249. Under its REF entry, `x[rd] <- ~x[rs]`. -/
def execNot (f : Fields) (s : State) : Host.Outcome State Fault Refusal :=
  runCycle (lookup s.params (s.params.opc .not) f) s

end Sys2Proof.Machine
end

