-- ==== Sys2Proof/Machine/Move.lean ====
section
/-! DEFINITION. Moves: MOV, MOVI, MOVHI (47_instructions.md R275 to R277). Each meaning is the instruction cycle with the control-table entry
of the class's opcode number: "Each opcode's behavior is fully determined by its three control-table entries plus its
register-mapping-table entry" (30_encoding.md R86), whatever the table is (47_instructions.md R249, R250; log entry 15). The
pseudocode quoted at each is the spec's for the REF entry. -/

namespace Sys2Proof.Machine

/-- MOV (R275): `CTL[OPC_MOV]` by R249. Under its REF entry, `x[rd] <- x[rs]`. -/
def execMov (f : Fields) (s : State) : Host.Outcome State Fault Refusal :=
  runCycle (lookup s.params (s.params.opc .mov) f) s

/-- MOVI (R276): `CTL[OPC_MOVI]` by R249. Under its REF entry, `x[rd] <- zext_64(imm)`. -/
def execMovi (f : Fields) (s : State) : Host.Outcome State Fault Refusal :=
  runCycle (lookup s.params (s.params.opc .movi) f) s

/-- MOVHI (R277): `CTL[OPC_MOVHI]` by R249. Under its REF entry, `x[rd] <- (x[rd] & 0x000F_FFFF_FFFF_FFFF) | (imm << 52)`. -/
def execMovhi (f : Fields) (s : State) : Host.Outcome State Fault Refusal :=
  runCycle (lookup s.params (s.params.opc .movhi) f) s

end Sys2Proof.Machine
end

