-- ==== Sys2Proof/Machine/Numbered.lean ====
section
/-! DEFINITION. The 32 rows of opcode numbers: the word with opcode field `k` executes the control-table entry `CTL[k]`
by 47_instructions.md R249. -/

namespace Sys2Proof.Machine

/-- Opcode 0: `CTL[0]` by R249. -/
def execOpcode0 (f : Fields) (s : State) : Host.Outcome State Fault Refusal := runCycle (lookup s.params 0 f) s

/-- Opcode 1: `CTL[1]` by R249. -/
def execOpcode1 (f : Fields) (s : State) : Host.Outcome State Fault Refusal := runCycle (lookup s.params 1 f) s

/-- Opcode 2: `CTL[2]` by R249. -/
def execOpcode2 (f : Fields) (s : State) : Host.Outcome State Fault Refusal := runCycle (lookup s.params 2 f) s

/-- Opcode 3: `CTL[3]` by R249. -/
def execOpcode3 (f : Fields) (s : State) : Host.Outcome State Fault Refusal := runCycle (lookup s.params 3 f) s

/-- Opcode 4: `CTL[4]` by R249. -/
def execOpcode4 (f : Fields) (s : State) : Host.Outcome State Fault Refusal := runCycle (lookup s.params 4 f) s

/-- Opcode 5: `CTL[5]` by R249. -/
def execOpcode5 (f : Fields) (s : State) : Host.Outcome State Fault Refusal := runCycle (lookup s.params 5 f) s

/-- Opcode 6: `CTL[6]` by R249. -/
def execOpcode6 (f : Fields) (s : State) : Host.Outcome State Fault Refusal := runCycle (lookup s.params 6 f) s

/-- Opcode 7: `CTL[7]` by R249. -/
def execOpcode7 (f : Fields) (s : State) : Host.Outcome State Fault Refusal := runCycle (lookup s.params 7 f) s

/-- Opcode 8: `CTL[8]` by R249. -/
def execOpcode8 (f : Fields) (s : State) : Host.Outcome State Fault Refusal := runCycle (lookup s.params 8 f) s

/-- Opcode 9: `CTL[9]` by R249. -/
def execOpcode9 (f : Fields) (s : State) : Host.Outcome State Fault Refusal := runCycle (lookup s.params 9 f) s

/-- Opcode 10: `CTL[10]` by R249. -/
def execOpcode10 (f : Fields) (s : State) : Host.Outcome State Fault Refusal := runCycle (lookup s.params 10 f) s

/-- Opcode 11: `CTL[11]` by R249. -/
def execOpcode11 (f : Fields) (s : State) : Host.Outcome State Fault Refusal := runCycle (lookup s.params 11 f) s

/-- Opcode 12: `CTL[12]` by R249. -/
def execOpcode12 (f : Fields) (s : State) : Host.Outcome State Fault Refusal := runCycle (lookup s.params 12 f) s

/-- Opcode 13: `CTL[13]` by R249. -/
def execOpcode13 (f : Fields) (s : State) : Host.Outcome State Fault Refusal := runCycle (lookup s.params 13 f) s

/-- Opcode 14: `CTL[14]` by R249. -/
def execOpcode14 (f : Fields) (s : State) : Host.Outcome State Fault Refusal := runCycle (lookup s.params 14 f) s

/-- Opcode 15: `CTL[15]` by R249. -/
def execOpcode15 (f : Fields) (s : State) : Host.Outcome State Fault Refusal := runCycle (lookup s.params 15 f) s

/-- Opcode 16: `CTL[16]` by R249. -/
def execOpcode16 (f : Fields) (s : State) : Host.Outcome State Fault Refusal := runCycle (lookup s.params 16 f) s

/-- Opcode 17: `CTL[17]` by R249. -/
def execOpcode17 (f : Fields) (s : State) : Host.Outcome State Fault Refusal := runCycle (lookup s.params 17 f) s

/-- Opcode 18: `CTL[18]` by R249. -/
def execOpcode18 (f : Fields) (s : State) : Host.Outcome State Fault Refusal := runCycle (lookup s.params 18 f) s

/-- Opcode 19: `CTL[19]` by R249. -/
def execOpcode19 (f : Fields) (s : State) : Host.Outcome State Fault Refusal := runCycle (lookup s.params 19 f) s

/-- Opcode 20: `CTL[20]` by R249. -/
def execOpcode20 (f : Fields) (s : State) : Host.Outcome State Fault Refusal := runCycle (lookup s.params 20 f) s

/-- Opcode 21: `CTL[21]` by R249. -/
def execOpcode21 (f : Fields) (s : State) : Host.Outcome State Fault Refusal := runCycle (lookup s.params 21 f) s

/-- Opcode 22: `CTL[22]` by R249. -/
def execOpcode22 (f : Fields) (s : State) : Host.Outcome State Fault Refusal := runCycle (lookup s.params 22 f) s

/-- Opcode 23: `CTL[23]` by R249. -/
def execOpcode23 (f : Fields) (s : State) : Host.Outcome State Fault Refusal := runCycle (lookup s.params 23 f) s

/-- Opcode 24: `CTL[24]` by R249. -/
def execOpcode24 (f : Fields) (s : State) : Host.Outcome State Fault Refusal := runCycle (lookup s.params 24 f) s

/-- Opcode 25: `CTL[25]` by R249. -/
def execOpcode25 (f : Fields) (s : State) : Host.Outcome State Fault Refusal := runCycle (lookup s.params 25 f) s

/-- Opcode 26: `CTL[26]` by R249. -/
def execOpcode26 (f : Fields) (s : State) : Host.Outcome State Fault Refusal := runCycle (lookup s.params 26 f) s

/-- Opcode 27: `CTL[27]` by R249. -/
def execOpcode27 (f : Fields) (s : State) : Host.Outcome State Fault Refusal := runCycle (lookup s.params 27 f) s

/-- Opcode 28: `CTL[28]` by R249. -/
def execOpcode28 (f : Fields) (s : State) : Host.Outcome State Fault Refusal := runCycle (lookup s.params 28 f) s

/-- Opcode 29: `CTL[29]` by R249. -/
def execOpcode29 (f : Fields) (s : State) : Host.Outcome State Fault Refusal := runCycle (lookup s.params 29 f) s

/-- Opcode 30: `CTL[30]` by R249. -/
def execOpcode30 (f : Fields) (s : State) : Host.Outcome State Fault Refusal := runCycle (lookup s.params 30 f) s

/-- Opcode 31: `CTL[31]` by R249. -/
def execOpcode31 (f : Fields) (s : State) : Host.Outcome State Fault Refusal := runCycle (lookup s.params 31 f) s

end Sys2Proof.Machine
end

