-- ==== Sys2Proof/Machine/Shift.lean ====
section
/-! DEFINITION. Shifts, register and immediate forms: SHL, SHR, SHLI, SHRI (47_instructions.md R265 to R268). Each meaning is the instruction cycle with the control-table entry
of the class's opcode number: "Each opcode's behavior is fully determined by its three control-table entries plus its
register-mapping-table entry" (30_encoding.md R86), whatever the table is (47_instructions.md R249, R250; log entry 15). The
pseudocode quoted at each is the spec's for the REF entry. -/

namespace Sys2Proof.Machine

/-- SHL (R265): `CTL[OPC_SHL]` by R249. Under its REF entry, `x[rd] <- x[rs] << x[rt]`, `SHIFT_OOR` from 64 on. -/
def execShl (f : Fields) (s : State) : Host.Outcome State Fault Refusal :=
  runCycle (lookup s.params (s.params.opc .shl) f) s

/-- SHR (R266): `CTL[OPC_SHR]` by R249. Under its REF entry, `x[rd] <- x[rs] >> x[rt]`, `SHIFT_OOR` from 64 on. -/
def execShr (f : Fields) (s : State) : Host.Outcome State Fault Refusal :=
  runCycle (lookup s.params (s.params.opc .shr) f) s

/-- SHLI (R267): `CTL[OPC_SHLI]` by R249. Under its REF entry, `x[rd] <- x[rs] << imm`, `SHIFT_OOR` from 64 on. -/
def execShli (f : Fields) (s : State) : Host.Outcome State Fault Refusal :=
  runCycle (lookup s.params (s.params.opc .shli) f) s

/-- SHRI (R268): `CTL[OPC_SHRI]` by R249. Under its REF entry, `x[rd] <- x[rs] >> imm`, `SHIFT_OOR` from 64 on. -/
def execShri (f : Fields) (s : State) : Host.Outcome State Fault Refusal :=
  runCycle (lookup s.params (s.params.opc .shri) f) s

end Sys2Proof.Machine
end

