-- ==== Sys2Proof/Machine/Transfer.lean ====
section
/-! DEFINITION. Branch, call and return: BNE, BGT, CALL, RET (47_instructions.md R269 to R272). Each meaning is the instruction cycle with the control-table entry
of the class's opcode number: "Each opcode's behavior is fully determined by its three control-table entries plus its
register-mapping-table entry" (30_encoding.md R86), whatever the table is (47_instructions.md R249, R250; log entry 15). The
pseudocode quoted at each is the spec's for the REF entry. -/

namespace Sys2Proof.Machine

/-- BNE (R269): `CTL[OPC_BNE]` by R249. Under its REF entry, `next = (x[rd] != x[rt] ? x[rs] : A + 4)`. -/
def execBne (f : Fields) (s : State) : Host.Outcome State Fault Refusal :=
  runCycle (lookup s.params (s.params.opc .bne) f) s

/-- BGT (R270): `CTL[OPC_BGT]` by R249. Under its REF entry, `next = (s64(x[rd]) > s64(x[rt]) ? x[rs] : A + 4)`. -/
def execBgt (f : Fields) (s : State) : Host.Outcome State Fault Refusal :=
  runCycle (lookup s.params (s.params.opc .bgt) f) s

/-- CALL (R271): `CTL[OPC_CALL]` by R249. Under its REF entry, `MemWrite(LINK_REL(x[LINK_INDEX], imm), 8, A + 4); next = x[rs]`. -/
def execCall (f : Fields) (s : State) : Host.Outcome State Fault Refusal :=
  runCycle (lookup s.params (s.params.opc .call) f) s

/-- RET (R272): `CTL[OPC_RET]` by R249. Under its REF entry, `next = MemRead(LINK_REL(x[LINK_INDEX], imm), 8)`. -/
def execRet (f : Fields) (s : State) : Host.Outcome State Fault Refusal :=
  runCycle (lookup s.params (s.params.opc .ret) f) s

end Sys2Proof.Machine
end

