-- ==== Sys2Proof/Machine/UndefinedOpcode.lean ====
section
/-! DEFINITION. The row of the undefined opcodes (47_instructions.md R251). -/

namespace Sys2Proof.Machine

/-- An undefined opcode executes the disabled entry `E0` (30_encoding.md R92, 47_instructions.md R251): no register or cell
changes, `alu_out <- ALU_SENTINEL`, and the next instruction is at `A + 4` (log entry 22). -/
def execUndefined (opc : Opcode) (f : Fields) (s : State) : Host.Outcome State Fault Refusal :=
  runCycle (Decoded.mk opc disabledEntry f) s

end Sys2Proof.Machine
end

