-- ==== Sys2Proof/Machine/Dispatch.lean ====
section
/-! DEFINITION. The dispatch from an instruction to its meaning: one arm per row of the opcode table. -/

namespace Sys2Proof.Machine

def exec (i : Instr) (s : State) : Host.Outcome State Fault Refusal :=
  match i with
  | .opcode0 f => Sys2Proof.Machine.execOpcode0 f s
  | .opcode1 f => Sys2Proof.Machine.execOpcode1 f s
  | .opcode2 f => Sys2Proof.Machine.execOpcode2 f s
  | .opcode3 f => Sys2Proof.Machine.execOpcode3 f s
  | .opcode4 f => Sys2Proof.Machine.execOpcode4 f s
  | .opcode5 f => Sys2Proof.Machine.execOpcode5 f s
  | .opcode6 f => Sys2Proof.Machine.execOpcode6 f s
  | .opcode7 f => Sys2Proof.Machine.execOpcode7 f s
  | .opcode8 f => Sys2Proof.Machine.execOpcode8 f s
  | .opcode9 f => Sys2Proof.Machine.execOpcode9 f s
  | .opcode10 f => Sys2Proof.Machine.execOpcode10 f s
  | .opcode11 f => Sys2Proof.Machine.execOpcode11 f s
  | .opcode12 f => Sys2Proof.Machine.execOpcode12 f s
  | .opcode13 f => Sys2Proof.Machine.execOpcode13 f s
  | .opcode14 f => Sys2Proof.Machine.execOpcode14 f s
  | .opcode15 f => Sys2Proof.Machine.execOpcode15 f s
  | .opcode16 f => Sys2Proof.Machine.execOpcode16 f s
  | .opcode17 f => Sys2Proof.Machine.execOpcode17 f s
  | .opcode18 f => Sys2Proof.Machine.execOpcode18 f s
  | .opcode19 f => Sys2Proof.Machine.execOpcode19 f s
  | .opcode20 f => Sys2Proof.Machine.execOpcode20 f s
  | .opcode21 f => Sys2Proof.Machine.execOpcode21 f s
  | .opcode22 f => Sys2Proof.Machine.execOpcode22 f s
  | .opcode23 f => Sys2Proof.Machine.execOpcode23 f s
  | .opcode24 f => Sys2Proof.Machine.execOpcode24 f s
  | .opcode25 f => Sys2Proof.Machine.execOpcode25 f s
  | .opcode26 f => Sys2Proof.Machine.execOpcode26 f s
  | .opcode27 f => Sys2Proof.Machine.execOpcode27 f s
  | .opcode28 f => Sys2Proof.Machine.execOpcode28 f s
  | .opcode29 f => Sys2Proof.Machine.execOpcode29 f s
  | .opcode30 f => Sys2Proof.Machine.execOpcode30 f s
  | .opcode31 f => Sys2Proof.Machine.execOpcode31 f s
  | .add f => Sys2Proof.Machine.execAdd f s
  | .sub f => Sys2Proof.Machine.execSub f s
  | .mul f => Sys2Proof.Machine.execMul f s
  | .div f => Sys2Proof.Machine.execDiv f s
  | .addi f => Sys2Proof.Machine.execAddi f s
  | .fadd f => Sys2Proof.Machine.execFadd f s
  | .fsub f => Sys2Proof.Machine.execFsub f s
  | .fmul f => Sys2Proof.Machine.execFmul f s
  | .fdiv f => Sys2Proof.Machine.execFdiv f s
  | .and f => Sys2Proof.Machine.execAnd f s
  | .or f => Sys2Proof.Machine.execOr f s
  | .xor f => Sys2Proof.Machine.execXor f s
  | .not f => Sys2Proof.Machine.execNot f s
  | .shl f => Sys2Proof.Machine.execShl f s
  | .shr f => Sys2Proof.Machine.execShr f s
  | .shli f => Sys2Proof.Machine.execShli f s
  | .shri f => Sys2Proof.Machine.execShri f s
  | .bne f => Sys2Proof.Machine.execBne f s
  | .bgt f => Sys2Proof.Machine.execBgt f s
  | .call f => Sys2Proof.Machine.execCall f s
  | .ret f => Sys2Proof.Machine.execRet f s
  | .load f => Sys2Proof.Machine.execLoad f s
  | .store f => Sys2Proof.Machine.execStore f s
  | .mov f => Sys2Proof.Machine.execMov f s
  | .movi f => Sys2Proof.Machine.execMovi f s
  | .movhi f => Sys2Proof.Machine.execMovhi f s
  | .inp f => Sys2Proof.Machine.execInp f s
  | .outp f => Sys2Proof.Machine.execOutp f s
  | .halt f => Sys2Proof.Machine.execHalt f s
  | .undefined opc f => Sys2Proof.Machine.execUndefined opc f s

end Sys2Proof.Machine
end

