-- ==== Sys2Proof/Machine/Fetch.lean ====
section
/-! DEFINITION. Instruction fetch and the single tick (41_fetch_unit.md R131 to R133, 40_signal_kernel.md R118), and the
placing of one instruction word where the next fetch reads it. -/

namespace Sys2Proof.Machine

/-- The raw fetched instruction `IMemRead(efa)`, or the fatal condition of an address out of range (41_fetch_unit.md R132,
R133). -/
def fetchWord (s : State) : Except Fault InstrWord :=
  if imemOut s.params (efa s) then .error (.imemRange (efa s) s) else .ok (imemRead s.imem (efa s))

/-- The decode unit's outputs for a raw word (42_decode_fsm.md R153, R154). -/
def decodeWires (p : Params) (w : InstrWord) : Decoded := lookup p (opcodeField w) (unpackFields w)

/-- `step(s)` of 40_signal_kernel.md R118: one tick, with the word at the effective fetch address. While `stop` is true no
tick runs (R120). -/
def tick (s : State) : Host.Outcome State Fault Refusal :=
  if s.stop then .next s
  else
    match fetchWord s with
    | .error r => .fault r
    | .ok w => tickOf (decodeWires s.params w) s

/-- The byte address of the instruction word that an address selects: bits 1..0 are ignored (20_memory.md R56). -/
def instrBase (a : Word) : Nat := cellBase (imemIndex a) + if a.getLsbD 2 then 4 else 0

/-- An instruction memory with one word placed where `IMemRead(a)` reads it. -/
def placeWord (m : Memory) (a : Word) (w : InstrWord) : Memory :=
  writeByte (writeByte (writeByte (writeByte m (instrBase a) (byteOfWord w 0)) (instrBase a + 1) (byteOfWord w 1))
    (instrBase a + 2) (byteOfWord w 2)) (instrBase a + 3) (byteOfWord w 3)

/-- A state whose next step fetches the word `w`: the word at the effective fetch address, the machine not stopped and
at the start of an instruction cycle (log entry 14). -/
def placeInstr (s : State) (w : InstrWord) : State :=
  { s with imem := placeWord s.imem (efa s) w, stage := .fetch, stop := false }

end Sys2Proof.Machine
end

