-- ==== Sys2Proof/Machine/Step.lean ====
section
/-! DEFINITION. The step of the machine: fetch, decode, and run the instruction's cycle. -/

namespace Sys2Proof.Machine

/-- One step: while `stop` is true nothing changes (40_signal_kernel.md R120, log entry 9); otherwise the word at the
effective fetch address is decoded and its instruction runs to the end of the instruction cycle (47_instructions.md R249, log
entry 1), or the fetch is fatal (41_fetch_unit.md R132). -/
def step (s : State) : Host.Outcome State Fault Refusal :=
  if s.stop then .next s
  else
    match fetchWord s with
    | .error r => .fault r
    | .ok w => exec (decode w) s

/-- The state with an opcode-table row's bits placed where `step` fetches its next instruction (log entry 14). -/
def State.withFetchWord (s : State) (nbits w : Nat) : State := placeInstr s (tableWord nbits w)

end Sys2Proof.Machine
end

