-- ==== Sys2Proof/Machine/Cycle.lean ====
section
/-! DEFINITION. The instruction cycle as 47_instructions.md R249 writes it, `exec(A)`: one function of the state at the
Fetch stage. The machine does not run this: `runCycle` runs the ticks of 40_signal_kernel.md R118. It is the reading that
the statements compare the ticks with. -/

namespace Sys2Proof.Machine

/-- `opnd` in the Execute tick: as R88, with `opnd(PC) = A` (R249). -/
def cycleOperand (d : Decoded) (src : OpSrc) (s : State) : Word :=
  match src with
  | .rd => rdValue d s
  | .rs => rsValue d s
  | .rt => rtValue d s
  | .imm => immValue d.fields.imm
  | .pc => efa s
  | .zero => 0

/-- `r_alu`, or the fatal condition of `DIV` (R249). -/
def cycleAlu (d : Decoded) (s : State) : Except AluFault Word :=
  alu s.params d.entry.alu.op (cycleOperand d d.entry.alu.src0 s) (cycleOperand d d.entry.alu.src1 s)

/-- `msrc` in the Memory tick (R249). -/
def cycleMemSource (d : Decoded) (r : Word) (src : MemSrc) (s : State) : Word :=
  match src with
  | .linkRel => linkRelative d.fields.imm s
  | .rs => rsValue d s
  | .alu => r
  | .pc4 => pcPlus4 s

/-- `ea` (R249). -/
def cycleAddr (d : Decoded) (r : Word) (s : State) : Word := cycleMemSource d r d.entry.mem.addr s

/-- `wdata` (R249). -/
def cycleData (d : Decoded) (r : Word) (s : State) : Word := cycleMemSource d r d.entry.mem.data s

/-- The value of the read output after the Memory edge (R249). -/
def cycleLoaded (d : Decoded) (r : Word) (s : State) : Word :=
  memRead s.dmem (if d.entry.mem.op = .load then cycleAddr d r s else Config.neutralAddr)

/-- The data memory after the Memory edge (R249). -/
def cycleDmem (d : Decoded) (r : Word) (s : State) : Memory :=
  if d.entry.mem.op = .store then memWrite s.dmem (cycleAddr d r s) (cycleData d r s) else s.dmem

/-- `result` in the Writeback tick (R249). -/
def cycleResult (d : Decoded) (r : Word) (s : State) : Word :=
  match d.entry.wb.src with
  | .alu => r
  | .lsu => cycleLoaded d r s
  | .brCond => if r ≠ 0 then rsValue d s else pcPlus4 s

/-- The next instruction's address (R249). -/
def cycleNext (d : Decoded) (r : Word) (s : State) : Word :=
  if d.entry.wb.dest = .pc then cycleResult d r s else pcPlus4 s

/-- The register file after the Writeback edge (R249). -/
def cycleRegs (d : Decoded) (r : Word) (s : State) : Vector Word numRegs :=
  if d.entry.wb.dest = .reg then writeReg s.x (rdIndex s.params d) (cycleResult d r s) else s.x

/-- The committed state before the Execute tick (70_reset_and_hazards.md R341). -/
def beforeExecute (s : State) : State :=
  { s with pc := efa s, redirect := none, stage := .execute, memRdata := memRead s.dmem Config.neutralAddr,
           clock := s.clock + 2 }

/-- The committed state before the Memory tick, when the ALU gave `r` (R341). -/
def beforeMemory (r : Word) (s : State) : State :=
  { beforeExecute s with stage := .memory, aluOut := r, clock := s.clock + 3 }

/-- The committed state before the Writeback tick, when the ALU gave `r` (R341). -/
def beforeWriteback (d : Decoded) (r : Word) (s : State) : State :=
  { beforeMemory r s with stage := .writeback, memRdata := cycleLoaded d r s, dmem := cycleDmem d r s,
                          clock := s.clock + 4 }

/-- The committed state at the end of the cycle, when the ALU gave `r` (R249). -/
def cycleEnd (d : Decoded) (r : Word) (s : State) : State :=
  { s with
    pc       := efa s
    redirect := some (cycleNext d r s)
    stage    := .fetch
    x        := cycleRegs d r s
    aluOut   := r
    memRdata := memRead (cycleDmem d r s) Config.neutralAddr
    dmem     := cycleDmem d r s
    stop     := s.stop || decide (d.opc = s.params.opc .halt)
    clock    := s.clock + 5 }

/-- `exec(A)` of R249 for the instruction `d`, entered at the Fetch stage with `efa = A`: its fatal conditions in order, each
with the state recorded before its tick (60_exceptions.md R306), else the end of the cycle. -/
def cycleOutcome (d : Decoded) (s : State) : Host.Outcome State Fault Refusal :=
  if imemOut s.params (efa s) then .fault (.imemRange (efa s) s)
  else
    match cycleAlu d s with
    | .error .divZero =>
      .fault (.divZero (cycleOperand d d.entry.alu.src0 s) (cycleOperand d d.entry.alu.src1 s) (beforeExecute s))
    | .error .divOverflow =>
      .fault (.divOverflow (cycleOperand d d.entry.alu.src0 s) (cycleOperand d d.entry.alu.src1 s) (beforeExecute s))
    | .ok r =>
      if d.entry.mem.op ≠ .none ∧ dmemOut s.params (cycleAddr d r s) then
        .fault (.dmemRange (cycleAddr d r s) (beforeMemory r s))
      else if d.entry.wb.dest = .reg ∧ rdIndex s.params d = guardIndex then
        .fault (.guardWrite d.opc (beforeWriteback d r s))
      else .next (cycleEnd d r s)

end Sys2Proof.Machine
end

