-- ==== Sys2Proof/Machine/HostOps.lean ====
section
/-! DEFINITION. The host interface (60_exceptions.md R317, R318): configuration, reset, the image builder, the image
load, `run(n)`, the clock and halt flag, `stop()` and the per-cycle trace. All act between ticks (log entry 20). -/

namespace Sys2Proof.Machine

/-! ### The fatal state -/

/-- The numeric code of a fatal kind (60_exceptions.md R302, R303). -/
def faultCode : Fault → Nat
  | .imemRange _ _ => 1
  | .dmemRange _ _ => 2
  | .divZero _ _ _ => 3
  | .divOverflow _ _ _ => 4
  | .guardWrite _ _ => 5
  | .muxRange _ _ => 6
  | .imageOdd _ _ => 7
  | .imageTooBig _ _ => 8

/-- The devices that the spec names with a fatal kind: those of the `raise Fatal(kind, device)` texts (40_signal_kernel.md R118,
20_memory.md R54, R57, 43_regfile.md R172, 44_alu.md R186) and those of the tables of R302 and R303. -/
inductive Device where
  | instructionMemory | dataMemory | alu | registerFile | multiplexer | imageBuilder | memory
  | fetchUnit | lsu | regfile
deriving DecidableEq, Repr

/-- The device that the `raise Fatal(kind, device)` text of a kind names, the `device` of the fatal state (60_exceptions.md
R301; 40_signal_kernel.md R118, R121, 20_memory.md R54, R57, 43_regfile.md R172, 44_alu.md R186, 70_reset_and_hazards.md R333;
log entry 10). -/
def raisedDevice : Fault → Device
  | .imemRange _ _ => .instructionMemory
  | .dmemRange _ _ => .dataMemory
  | .divZero _ _ _ => .alu
  | .divOverflow _ _ _ => .alu
  | .guardWrite _ _ => .registerFile
  | .muxRange _ _ => .multiplexer
  | .imageOdd _ _ => .imageBuilder
  | .imageTooBig _ _ => .memory

/-- The device in a kind's row of the tables of R302 and R303, which name the unit that makes the access where the raise names
the storage accessed (60_exceptions.md R302, R303; log entry 10). -/
def faultDevice : Fault → Device
  | .imemRange _ _ => .fetchUnit
  | .dmemRange _ _ => .lsu
  | .divZero _ _ _ => .alu
  | .divOverflow _ _ _ => .alu
  | .guardWrite _ _ => .regfile
  | .muxRange _ _ => .multiplexer
  | .imageOdd _ _ => .imageBuilder
  | .imageTooBig _ _ => .memory

/-- The `info` of a fatal kind (60_exceptions.md R302, R303): an address, the operand pair, the opcode, or a number. -/
inductive FatalInfo where
  | address (a : Word)
  | operands (a b : Word)
  | opcode (k : Opcode)
  | number (n : Nat)
deriving DecidableEq, Repr

/-- The `info` that a fatal condition records (R302, R303). -/
def faultInfo : Fault → FatalInfo
  | .imemRange a _ => .address a
  | .dmemRange a _ => .address a
  | .divZero a b _ => .operands a b
  | .divOverflow a b _ => .operands a b
  | .guardWrite k _ => .opcode k
  | .muxRange n _ => .number n
  | .imageOdd n _ => .number n
  | .imageTooBig n _ => .number n

/-- The recorded state: the committed state at the start of the abandoned tick (R301). -/
def faultState : Fault → State
  | .imemRange _ s => s
  | .dmemRange _ s => s
  | .divZero _ _ s => s
  | .divOverflow _ _ s => s
  | .guardWrite _ s => s
  | .muxRange _ s => s
  | .imageOdd _ s => s
  | .imageTooBig _ s => s

/-- The fatal state `Fatal(kind, device, info, s)` (60_exceptions.md R301), the kind by its code, with both names that the spec
gives the device. -/
structure FatalState where
  code        : Nat
  device      : Device
  tableDevice : Device
  info        : FatalInfo
  recorded    : State
deriving DecidableEq, Repr

/-- The fatal state that a fault stands for (R301). -/
def fatalState (r : Fault) : FatalState where
  code        := faultCode r
  device      := raisedDevice r
  tableDevice := faultDevice r
  info        := faultInfo r
  recorded    := faultState r

/-! ### Configuration and images -/

/-- The number of cells less one of a byte capacity; a capacity that is not a multiple of 8, or is below 8, is refused
(93_implementation_defined.md I7). -/
def cellsPredOf (bytes : Nat) : Except Refusal Nat :=
  if bytes % 8 = 0 ∧ 8 ≤ bytes then .ok (bytes / 8 - 1) else .error (.badCapacity bytes)

/-- Parameters with given byte capacities, if they are legal (R5, 30_encoding.md R92, R95). -/
def configure (p : Params) (imemBytes dmemBytes : Nat) : Except Refusal Params :=
  match cellsPredOf imemBytes, cellsPredOf dmemBytes with
  | .error r, _ => .error r
  | .ok _, .error r => .error r
  | .ok i, .ok d =>
    let q : Params := { p with imemCellsPred := i, dmemCellsPred := d }
    if legalParams q then .ok q else .error .illegalParams

/-- The cells of an even number of instruction words, "low instruction in the low half" (30_encoding.md R83). -/
def pairCells : List InstrWord → Option (List Word)
  | [] => some []
  | [_] => none
  | lo :: hi :: rest => (pairCells rest).map (fun cells => (hi ++ lo) :: cells)

/-- `BuildImage`: instruction records packed into cells, an odd count fatal with the reset state recorded (30_encoding.md
R83, 60_exceptions.md R303). -/
def buildImage (p : Params) (records : List (Opcode × Fields)) : Except Fault (List Word) :=
  match pairCells (records.map fun r => pack r.1 r.2) with
  | some cells => .ok cells
  | none => .error (.imageOdd records.length (.resetWith p))

/-- `load(imem_image, dmem_image)` before the first tick (60_exceptions.md R317, 70_reset_and_hazards.md R332, R333): an image
longer than its memory is fatal with the reset state recorded (R303), a load after the first tick is refused. -/
def loadImages (s : State) (imemImage dmemImage : List Word) : Host.Outcome State Fault Refusal :=
  if s.clock ≠ 0 then .refused (.lateLoad s.clock)
  else if s.params.imemCells < imemImage.length then .fault (.imageTooBig imemImage.length (.resetWith s.params))
  else if s.params.dmemCells < dmemImage.length then .fault (.imageTooBig dmemImage.length (.resetWith s.params))
  else .next { s with imem := imageMemory imemImage, dmem := imageMemory dmemImage }

/-- Boot: `reset()`, then the image load (70_reset_and_hazards.md R332). -/
def boot (p : Params) (imemImage dmemImage : List Word) : Host.Outcome State Fault Refusal :=
  loadImages (.resetWith p) imemImage dmemImage

/-! ### Running -/

/-- `run(n)`: up to `n` ticks, with an early return once `stop` is true or a tick is fatal (40_signal_kernel.md R120). -/
def run : Nat → State → Host.Outcome State Fault Refusal
  | 0, s => .next s
  | n + 1, s =>
    if s.stop then .next s
    else
      match tick s with
      | .next t => run n t
      | .fault r => .fault r
      | .refused r => .refused r

/-- `get_clock()` (R119). -/
def getClock (s : State) : Nat := s.clock

/-- `is_stopped()` (R119). -/
def isStopped (s : State) : Bool := s.stop

/-- The host's `stop()`, between ticks (R119, 60_exceptions.md R317). -/
def hostStop (s : State) : State := { s with stop := true }

/-- `reset()` of a running or stopped machine (70_reset_and_hazards.md R330). -/
def hostReset (s : State) : State := .resetWith s.params

/-- `reset()` of a machine in any condition: it also leaves the fatal state (60_exceptions.md R301). -/
def sessionReset : Host.Outcome State Fault Refusal → Host.Outcome State Fault Refusal
  | .next s => .next (hostReset s)
  | .fault r => .next (hostReset (faultState r))
  | .refused r => .refused r

/-- `run(n)` of a machine in any condition: no tick runs in the fatal state (60_exceptions.md R301). -/
def sessionRun (n : Nat) : Host.Outcome State Fault Refusal → Host.Outcome State Fault Refusal
  | .next s => run n s
  | .fault r => .fault r
  | .refused r => .refused r

/-- `stop()` of a machine in any condition. -/
def sessionStop : Host.Outcome State Fault Refusal → Host.Outcome State Fault Refusal
  | .next s => .next (hostStop s)
  | .fault r => .fault r
  | .refused r => .refused r

/-! ### Observation -/

/-- The five stage enables (42_decode_fsm.md R152). -/
structure Enables where
  fetch     : Bool
  decode    : Bool
  execute   : Bool
  memory    : Bool
  writeback : Bool
deriving DecidableEq, Repr

/-- The enables of a state. -/
def enablesOf (s : State) : Enables where
  fetch     := enabled .fetch s
  decode    := enabled .decode s
  execute   := enabled .execute s
  memory    := enabled .memory s
  writeback := enabled .writeback s

/-- What the trace shows of the instruction word at `efa`: the control record and the mapped indices. -/
structure TraceDecode where
  entry : Entry
  rdI   : Fin numRegs
  rsI   : Fin numRegs
  rtI   : Fin numRegs
deriving DecidableEq, Repr

/-- The per-cycle trace (60_exceptions.md R318): an observation, not state. -/
structure Trace where
  pc      : Word
  stage   : Stage
  enables : Enables
  decode  : Option TraceDecode
  x       : Vector Word numRegs
deriving DecidableEq, Repr

/-- The decoded part of the trace for a control record. -/
def traceDecode (p : Params) (d : Decoded) : TraceDecode where
  entry := d.entry
  rdI   := rdIndex p d
  rsI   := rsIndex p d
  rtI   := rtIndex p d

/-- The trace of the tick that starts in a state: the committed PC, the stage, the enables, the control record and mapped
indices of the word at `efa` (none where the fetch is out of range), and the registers (R318). -/
def trace (s : State) : Trace where
  pc      := s.pc
  stage   := s.stage
  enables := enablesOf s
  decode  := match fetchWord s with
             | .ok w => some (traceDecode s.params (decodeWires s.params w))
             | .error _ => none
  x       := s.x

end Sys2Proof.Machine
end

