-- ==== Sys2Proof/Safety.lean ====
section
/-! DEFINITION. What counts as a safe run: the invariant of the states that a run can reach, and a step that is not
fatal. -/

namespace Sys2Proof.Machine

/-- The ticks of the current instruction cycle that are over (70_reset_and_hazards.md R340). -/
def ticksDone : Stage → Nat
  | .fetch => 0
  | .decode => 1
  | .execute => 2
  | .memory => 3
  | .writeback => 4

/-- The invariant of every state that a run reaches. -/
structure State.Inv (s : State) : Prop where
  /-- The parameters are ones that R92 and R95 allow. -/
  params_legal    : legalParams s.params = true
  /-- The guard register holds `GUARD_VALUE` (10_state.md R23). -/
  guard_value     : readReg s guardIndex = s.params.guardValue
  /-- `redirect` is `Some` exactly in a Fetch tick that follows a Writeback tick (10_state.md R26, 41_fetch_unit.md R138). -/
  redirect_iff    : s.redirect.isSome ↔ s.stage = .fetch ∧ s.clock ≠ 0
  /-- Five ticks an instruction (70_reset_and_hazards.md R340). -/
  clock_stage     : s.clock % 5 = ticksDone s.stage
  /-- From Decode to Writeback the PC is an address that the Fetch tick found in range (60_exceptions.md R302). -/
  pc_in_range     : s.stage ≠ .fetch → imemOut s.params s.pc = false
  /-- The instruction memory is in canonical form. -/
  imem_canonical  : s.imem.wf
  /-- The data memory is in canonical form. -/
  dmem_canonical  : s.dmem.wf
  /-- No byte of the instruction memory lies past its capacity (20_memory.md R54). -/
  imem_capacity   : ∀ c ∈ s.imem, c.1 < s.params.imemBytes
  /-- No byte of the data memory lies past its capacity (20_memory.md R57). -/
  dmem_capacity   : ∀ c ∈ s.dmem, c.1 < s.params.dmemBytes

/-- A step is safe: it is not fatal (60_exceptions.md R301). -/
def SafeStep (s : State) : Prop := ∃ t, step s = .next t

/-- A state in which the next step runs a whole instruction cycle: not stopped, at the Fetch stage, with the fetch address in
range (47_instructions.md R249). -/
structure State.Ready (s : State) : Prop where
  running  : s.stop = false
  at_fetch : s.stage = .fetch
  in_range : imemOut s.params (efa s) = false

/-- A state in which the next step runs a whole cycle of the class `m` under its REF entry: the opcode numbers are distinct
(30_encoding.md R95) and `CTL[OPC_m]` is the entry of 47_instructions.md (R250). -/
structure State.ReadyFor (m : Mnemonic) (s : State) : Prop where
  ready    : s.Ready
  distinct : opcodesDistinct s.params = true
  entry    : entryOf s.params (s.params.opc m) = refEntry m

/-- The state after an instruction cycle that writes no register and no cell: the PC holds the instruction's address, the next
address waits in `redirect`, the ALU's register holds the result, the read output holds cell 0, five ticks have passed, and
everything else is as before (47_instructions.md R249). -/
def afterCycle (s : State) (aluV next : Word) : State :=
  { s with pc := efa s, redirect := some next, aluOut := aluV, memRdata := memRead s.dmem Config.neutralAddr,
           clock := s.clock + 5 }

/-- The state after an instruction cycle whose one result goes to a general register and whose successor is at `A + 4`. -/
def afterRegWrite (s : State) (rd : RegNo) (v : Word) : State :=
  { afterCycle s v (pcPlus4 s) with x := writeReg s.x (regIndex rd) v }

/-! ### Binary64 values in the terms of 44_alu.md R201 (the encoding is IEEE-754's, log entry 18) -/

/-- A finite pattern: exponent field not all ones. -/
def f64Finite (v : Word) : Prop := f64Exp v ≠ 2047

/-- The infinity of a sign, `true` for minus. -/
def signedInf (minus : Bool) : Word := if minus then 0xFFF0000000000000#64 else 0x7FF0000000000000#64

/-- The zero of a sign, `true` for minus. -/
def signedZero (minus : Bool) : Word := if minus then 0x8000000000000000#64 else 0x0#64

/-- The magnitude from which a result overflows, 2^1024 - 2^970, in units of 2^-1074: the midpoint between the largest finite
value and 2^1024, which ties to even rounds up. -/
def overflowUnits : Nat := 2 ^ 2098 - 2 ^ 2044

/-- `r` is the finite value nearest to `n / d` units: no finite value is nearer, and where another is as near, `r`'s fraction is
even. Distances are compared after multiplying by `d`, which is not 0. -/
def NearestEven (n d : Int) (r : Word) : Prop :=
  f64Finite r ∧ ∀ c : Word, f64Finite c →
    (f64Units r * d - n).natAbs ≤ (f64Units c * d - n).natAbs ∧
    ((f64Units r * d - n).natAbs = (f64Units c * d - n).natAbs → f64Units c ≠ f64Units r → f64Frac r % 2 = 0)

/-- `r` is `n / d` units rounded to binary64: the nearest finite value below the overflow threshold, from there on the infinity
of the exact value's sign (44_alu.md R201). -/
def RoundsTo (n d : Int) (r : Word) : Prop :=
  (n.natAbs < overflowUnits * d.natAbs → NearestEven n d r) ∧
  (overflowUnits * d.natAbs ≤ n.natAbs → r = signedInf (decide (n < 0) ^^ decide (d < 0)))

end Sys2Proof.Machine
end

