-- ==== Sys2Proof/Certificates/Slice0/Obligations.lean ====
section
/-! DEFINITION. The statements for the provers. A rule R<n> is of spec/; a log entry <n> is notes/assumptions/<n>.md. A
statement about an instruction gives the whole next state, so its frame is in it: every field that its right side does not
name is as before. -/

open Sys2Proof Sys2Proof.Machine

/-! ### Encoding -/

/-- R82: the codec's places of the fields, `unpack(pack(f)) = f` for every field tuple, and `pack(unpack(w)) = w` for every word. -/
def Obligations.PackUnpackLossless : Prop :=
  (∀ (opc : Opcode) (f : Fields),
    (pack opc f).toNat =
      opc.toNat + f.rd.toNat * 2 ^ 5 + f.rs.toNat * 2 ^ 10 + f.rt.toNat * 2 ^ 15 + f.imm.toNat * 2 ^ 20) ∧
  (∀ w : InstrWord,
    (opcodeField w).toNat = w.toNat % 2 ^ 5 ∧ (unpackFields w).rd.toNat = w.toNat / 2 ^ 5 % 2 ^ 5 ∧
    (unpackFields w).rs.toNat = w.toNat / 2 ^ 10 % 2 ^ 5 ∧ (unpackFields w).rt.toNat = w.toNat / 2 ^ 15 % 2 ^ 5 ∧
    (unpackFields w).imm.toNat = w.toNat / 2 ^ 20) ∧
  (∀ (opc : Opcode) (f : Fields), opcodeField (pack opc f) = opc ∧ unpackFields (pack opc f) = f) ∧
  (∀ w : InstrWord, pack (opcodeField w) (unpackFields w) = w)

/-- Decode and encode agree (R82, R95): a numbered row is read back by the decoder, every other well-formed row by the
decoder under the same parameters, where the opcode numbers are distinct. -/
def Obligations.DecodeEncodeRoundTrip : Prop :=
  ∀ (p : Params) (i : Instr), opcodesDistinct p = true → i.wf p = true →
    (∀ k, i.row = .numbered k → decode (encode p i) = i) ∧
    ((∀ k, i.row ≠ .numbered k) → decodeNamed p (encode p i) = i)

/-- The other direction (R82, R93): each word has one meaning, and encoding what either decoder reads gives the word
back, with every field that the instruction ignores. -/
def Obligations.EncodeDecodeRoundTrip : Prop :=
  ∀ (p : Params) (w : InstrWord), encode p (decode w) = w ∧ encode p (decodeNamed p w) = w

/-- The words of 95_test_vectors.md S1, decoded. -/
def Obligations.DecodesVectorWords : Prop :=
  decode 0x00000000#32 = .opcode0 { rd := 0, rs := 0, rt := 0, imm := 0 } ∧
  decode 0xFFFFFFFF#32 = .opcode31 { rd := 31, rs := 31, rt := 31, imm := 4095 } ∧
  decode 0x00500020#32 = .opcode0 { rd := 1, rs := 0, rt := 0, imm := 5 } ∧
  decode 0x00500000#32 = .opcode0 { rd := 0, rs := 0, rt := 0, imm := 5 } ∧
  decode 0x5AB20C41#32 = .opcode1 { rd := 2, rs := 3, rt := 4, imm := 0x5AB } ∧
  decode 0x00008000#32 = .opcode0 { rd := 0, rs := 0, rt := 1, imm := 0 } ∧
  decode 0xDEADBEEF#32 = .opcode15 { rd := 23, rs := 15, rt := 27, imm := 0xDEA }

/-- A named instruction runs as the row of its opcode number, and under legal parameters both decoders' readings of a word
run alike (R249, R251). -/
def Obligations.NamedRowRunsAsItsNumber : Prop :=
  (∀ (s : State) (m : Mnemonic) (f : Fields), exec (.named m f) s = exec (.numbered (s.params.opc m) f) s) ∧
  (∀ (s : State) (w : InstrWord), legalParams s.params = true →
    exec (decodeNamed s.params w) s = exec (decode w) s)

/-- R91, R85: the mapped index of a slot, which is 32 only for a slot that is off; and the immediate operand, which is the 12-bit
field zero-extended. -/
def Obligations.OperandFieldsDecoded : Prop :=
  ∀ (p : Params) (f : RegNo) (imm : Imm),
    (mapIndex p .pass f).val = f.toNat ∧
    (mapIndex p .link f).val = p.linkIndex.toNat ∧
    (∀ m, (mapIndex p m f).val = 32 ↔ m = .off) ∧
    (immValue imm).toNat = imm.toNat ∧ (immValue imm).toNat ≤ 4095

/-- R83: an even number of instruction records becomes half as many cells, cell `j` holding the odd record's word in its
high half, and word `i` is fetched at byte address `4 * i`; an odd number is fatal. -/
def Obligations.BuiltImageFetchesInOrder : Prop :=
  ∀ (p : Params) (records : List (Opcode × Fields)),
    (records.length % 2 = 0 →
      ∃ cells, buildImage p records = .ok cells ∧ 2 * cells.length = records.length ∧
        (∀ (j : Nat) (lo hi : Opcode × Fields), records[2 * j]? = some lo → records[2 * j + 1]? = some hi →
          cells[j]? = some (((pack hi.1 hi.2).setWidth 64 <<< 32) ||| (pack lo.1 lo.2).setWidth 64)) ∧
        (∀ (i : Nat) (r : Opcode × Fields), records[i]? = some r → 4 * i < 2 ^ 64 →
          imemRead (imageMemory cells) (BitVec.ofNat 64 (4 * i)) = pack r.1 r.2)) ∧
    (records.length % 2 = 1 → buildImage p records = .error (.imageOdd records.length (.resetWith p)))

/-! ### Fetch, step and cycle -/

/-- A step runs the decoded instruction, from fetch to the end of its cycle; an address out of range is fatal (R132). In the spec
`step` is one tick (R118); that the model's step is a whole instruction cycle is its own choice (log entry 1, DESIGN CHOICE). -/
def Obligations.StepRunsDecodedInstruction : Prop :=
  ∀ s : State, s.stop = false →
    (∀ w, fetchWord s = .ok w → step s = exec (decode w) s) ∧
    (imemOut s.params (efa s) = true → step s = .fault (.imemRange (efa s) s))

/-- R249: the five ticks of R118 over one instruction, entered at the Fetch stage, give exactly the cycle that R249 writes,
its fatal conditions with their recorded states among it: five ticks that each fetch and decode anew, and the five ticks
of any decoded instruction, which a meaning runs. -/
def Obligations.CycleIsFiveTicks : Prop :=
  (∀ s : State, s.stop = false → s.stage = .fetch →
    run 5 s = cycleOutcome (decodeWires s.params (imemRead s.imem (efa s))) s) ∧
  (∀ (d : Decoded) (s : State), s.stop = false → s.stage = .fetch → runCycle d s = cycleOutcome d s)

/-- The machine's step is the ticks of R118, each fetching anew, to the end of the instruction cycle, in every state
whose override is absent outside the Fetch stage (R138). That a step is a whole cycle is the model's choice (log entry 1,
DESIGN CHOICE). -/
def Obligations.StepIsTicksToCycleEnd : Prop :=
  ∀ s : State, (s.stage ≠ .fetch → s.redirect = none) → step s = run (ticksLeft s.stage) s

/-- Every numbered row completes (R249): with the fetch address in range, an ALU result, a data address in range where
the entry accesses memory and no register write through a slot that is off, the instruction `opcode_k`, for every `k`
from 0 to 31, ends its cycle. -/
def Obligations.NumberedRowsComplete : Prop :=
  ∀ (k : Opcode) (f : Fields) (s : State) (r : Word), s.Ready →
    cycleAlu (lookup s.params k f) s = .ok r →
    ((entryOf s.params k).mem.op ≠ .none → dmemOut s.params (cycleAddr (lookup s.params k f) r s) = false) →
    ¬((entryOf s.params k).wb.dest = .reg ∧ (entryOf s.params k).map.rd = .off) →
    exec (.numbered k f) s = .next (cycleEnd (lookup s.params k f) r s)

/-- The frame of every numbered row under any table (R233, R239, 45_lsu.md R214): a register other than the mapped destination of
a register-writing entry, a byte outside the stored cell, the whole data memory where the entry stores nothing, the
instruction memory and the parameters are as before. The stored address is `ea` in the state before the Memory tick. -/
def Obligations.NumberedRowFrame : Prop :=
  ∀ (k : Opcode) (f : Fields) (s t : State) (r : Word), s.Ready → s.dmem.wf →
    cycleAlu (lookup s.params k f) s = .ok r → exec (.numbered k f) s = .next t →
    (∀ j, ¬((entryOf s.params k).wb.dest = .reg ∧ j = rdIndex s.params (lookup s.params k f)) →
      readReg t j = readReg s j) ∧
    ((entryOf s.params k).mem.op ≠ .store → ∀ a, readByte t.dmem a = readByte s.dmem a) ∧
    ((entryOf s.params k).mem.op = .store → ∀ a,
      (a < 8 * dmemIndex (effAddr (lookup s.params k f) (beforeMemory r s)) ∨
        8 * dmemIndex (effAddr (lookup s.params k f) (beforeMemory r s)) + 8 ≤ a) →
      readByte t.dmem a = readByte s.dmem a) ∧
    t.imem = s.imem ∧ t.params = s.params

/-- An instruction word placed by the model's interface is the next one fetched, and only its four bytes of the
instruction memory change (the interface and its byte order are the model's, log entries 11 and 14). -/
def Obligations.PlacedWordIsFetched : Prop :=
  ∀ (s : State) (w : Nat), s.imem.wf → imemOut s.params (efa s) = false →
    fetchWord (s.withFetchWord 32 w) = .ok (BitVec.ofNat 32 w) ∧
    step (s.withFetchWord 32 w) = exec (decode (BitVec.ofNat 32 w)) (s.withFetchWord 32 w) ∧
    ∀ a, (a < instrBase (efa s) ∨ instrBase (efa s) + 4 ≤ a) →
      readByte (s.withFetchWord 32 w).imem a = readByte s.imem a

/-- R56: bits 1..0 of an instruction address are ignored, in the word read and in the range check, and no fetch address
faults for its alignment. -/
def Obligations.FetchIgnoresLowBits : Prop :=
  (∀ (m : Memory) (a : Word), imemRead m a = imemRead m (a &&& ~~~3#64)) ∧
  (∀ (p : Params) (a : Word), imemOut p a = imemOut p (a &&& ~~~3#64)) ∧
  (∀ s : State, imemOut s.params (efa s) = false → fetchWord s = .ok (imemRead s.imem (efa s)))

/-- R140: across one instruction cycle the PC changes from the previous instruction's address to this one's, and without
a transfer to a computed target the next instruction is fetched 4 bytes on; the writeback unit's target otherwise (R235). -/
def Obligations.PcAdvancesOncePerInstruction : Prop :=
  ∀ (s t : State) (w : InstrWord), s.Ready → fetchWord s = .ok w → step s = .next t →
    t.pc = efa s ∧
    ((entryOf s.params (opcodeField w)).wb.dest ≠ .pc → efa t = efa s + 4) ∧
    ((entryOf s.params (opcodeField w)).wb.dest = .pc →
      efa t = cycleResult (decodeWires s.params w) t.aluOut s)

/-- R340: an instruction takes exactly five ticks and ends at the Fetch stage. -/
def Obligations.InstructionTakesFiveTicks : Prop :=
  ∀ s t : State, s.stop = false → s.stage = .fetch → step s = .next t → t.clock = s.clock + 5 ∧ t.stage = .fetch

/-! ### One tick -/

/-- R151, R152: the stage enables are functions of the stage, exactly one is true in a tick, and a tick that completes advances
the stage by one, wrapping from Writeback to Fetch, whatever the instruction; the clock counts it (R311). -/
def Obligations.TickAdvancesStageAndClock : Prop :=
  (∀ (st : Stage) (s : State), enabled st s = true ↔ s.stage = st) ∧
  (∀ s : State, ∃ st, enabled st s = true ∧ ∀ u, enabled u s = true → u = st) ∧
  (nextStage .fetch = .decode ∧ nextStage .decode = .execute ∧ nextStage .execute = .memory ∧
    nextStage .memory = .writeback ∧ nextStage .writeback = .fetch) ∧
  (∀ s t : State, s.stop = false → tick s = .next t → t.stage = nextStage s.stage ∧ t.clock = s.clock + 1)

/-- R135, R136, R234: the PC takes the effective fetch address at the edge of a Fetch tick and keeps its value at every other
edge; the redirect register takes, at every edge, the PC write, which is the result where the destination is the PC and
`pc_plus_4` elsewhere in the Writeback tick, and absent in every other tick. -/
def Obligations.PcAndRedirectCommit : Prop :=
  ∀ (s t : State) (w : InstrWord), s.stop = false → fetchWord s = .ok w → tick s = .next t →
    (s.stage = .fetch → t.pc = s.redirect.getD s.pc) ∧
    (s.stage ≠ .fetch → t.pc = s.pc) ∧
    (s.stage ≠ .writeback → t.redirect = none) ∧
    (s.stage = .writeback →
      t.redirect = some (if (entryOf s.params (opcodeField w)).wb.dest = .pc
                         then result (decodeWires s.params w) s else efa s + 4))

/-- R171, R233: the register file writes at most one entry, the mapped destination, with the result, in the Writeback tick
of an entry whose destination is the register file; every other entry keeps its value. -/
def Obligations.RegisterFileWritesOneEntry : Prop :=
  ∀ (s t : State) (w : InstrWord), s.stop = false → fetchWord s = .ok w → tick s = .next t →
    ∀ j, readReg t j =
      if s.stage = .writeback ∧ (entryOf s.params (opcodeField w)).wb.dest = .reg ∧
          j = rdIndex s.params (decodeWires s.params w)
      then result (decodeWires s.params w) s else readReg s j

/-- R180: the ALU's register takes the operation's result at the edge of the Execute tick and holds at every other edge, and an
operation that would fault faults only in the Execute tick. -/
def Obligations.AluOutputHoldsOutsideExecute : Prop :=
  (∀ (s t : State) (w : InstrWord), s.stop = false → fetchWord s = .ok w → tick s = .next t →
    (s.stage = .execute →
      alu s.params (entryOf s.params (opcodeField w)).alu.op
        (aluOperand (decodeWires s.params w) (entryOf s.params (opcodeField w)).alu.src0 s)
        (aluOperand (decodeWires s.params w) (entryOf s.params (opcodeField w)).alu.src1 s) = .ok t.aluOut) ∧
    (s.stage ≠ .execute → t.aluOut = s.aluOut)) ∧
  (∀ (s : State) (r : Fault), tick s = .fault r → (faultCode r = 3 ∨ faultCode r = 4) → s.stage = .execute)

/-- R53, R60, R216: the data memory changes only at the edge of a Memory tick whose signal is a store, and the read output
takes, at every edge, the addressed cell as it was before that edge. -/
def Obligations.DataMemoryPorts : Prop :=
  ∀ (s t : State) (w : InstrWord), s.stop = false → fetchWord s = .ok w → tick s = .next t →
    (¬(s.stage = .memory ∧ (entryOf s.params (opcodeField w)).mem.op = .store) → t.dmem = s.dmem) ∧
    (s.stage = .memory → (entryOf s.params (opcodeField w)).mem.op = .store →
      t.dmem = memWrite s.dmem (effAddr (decodeWires s.params w) s) (storeData (decodeWires s.params w) s)) ∧
    (s.stage = .memory → (entryOf s.params (opcodeField w)).mem.op = .load →
      t.memRdata = memRead s.dmem (effAddr (decodeWires s.params w) s)) ∧
    (¬(s.stage = .memory ∧ (entryOf s.params (opcodeField w)).mem.op = .load) → t.memRdata = memRead s.dmem 0)

/-- R236: the halt flag is set at the edge of the Writeback tick of the opcode `OPC_HALT`, under any entry, and by no other
tick. -/
def Obligations.HaltSetsStopAtWriteback : Prop :=
  ∀ (s t : State) (w : InstrWord), s.stop = false → fetchWord s = .ok w → tick s = .next t →
    (t.stop = true ↔ s.stage = .writeback ∧ opcodeField w = s.params.opc .halt)

/-! ### Runs, reset and the host -/

/-- R120: `run(n)` is a tick and the rest of the run, with no tick once `stop` is true and none in the fatal state; a run of
`m + n` ticks is a run of `m` and then of `n`; once `stop` is true, by a halt or by the host, no later run changes anything. That a
stopped machine's step answers the same state is how the model says that no tick runs (log entry 9, DESIGN CHOICE). -/
def Obligations.RunStopsAtHalt : Prop :=
  (∀ (n : Nat) (s : State), s.stop = false → run (n + 1) s = sessionRun n (tick s)) ∧
  (∀ (m n : Nat) (s : State), run (m + n) s = sessionRun n (run m s)) ∧
  (∀ (n : Nat) (s : State), s.stop = true → run n s = .next s ∧ step s = .next s) ∧
  (∀ (m n : Nat) (s t : State), run m s = .next t → t.stop = true → run (m + n) s = .next t)

/-- R330: what `reset()` leaves, and that it leaves the fatal state. -/
def Obligations.ResetLeavesSpecValues : Prop :=
  (∀ p : Params,
    let s := State.resetWith p
    s.stage = .fetch ∧ s.pc = 0 ∧ s.redirect = none ∧ (∀ r, readGpr s r = 0) ∧ readReg s guardIndex = p.guardValue ∧
    s.aluOut = 0 ∧ s.memRdata = 0 ∧ s.stop = false ∧ s.clock = 0 ∧
    (∀ i, readCell s.imem i = 0) ∧ (∀ i, readCell s.dmem i = 0)) ∧
  (∀ s : State, sessionReset (.next s) = .next (.resetWith s.params)) ∧
  (∀ r : Fault, sessionReset (.fault r) = .next (.resetWith (faultState r).params))

/-- The image load puts the image's cells in address order and zero cells after them, and an image longer than its memory is
fatal (R333, R303). Where both images are too long the instruction image's length is recorded: the model's choice, since R332
leaves the order of the two loads open (log entry 20, DESIGN CHOICE). -/
def Obligations.ImageLoadPlacesCells : Prop :=
  (∀ (image : List Word) (i : Nat), readCell (imageMemory image) i = image.getD i 0) ∧
  (∀ (s : State) (im dm : List Word), s.clock = 0 →
    (s.params.imemCells < im.length →
      loadImages s im dm = .fault (.imageTooBig im.length (.resetWith s.params))) ∧
    (im.length ≤ s.params.imemCells → s.params.dmemCells < dm.length →
      loadImages s im dm = .fault (.imageTooBig dm.length (.resetWith s.params))) ∧
    (im.length ≤ s.params.imemCells → dm.length ≤ s.params.dmemCells →
      loadImages s im dm = .next { s with imem := imageMemory im, dmem := imageMemory dm }))

/-! ### Invariants -/

/-- The reset state meets the invariant. Its parameters are legal by the model's own construction (log entry 3). -/
def Obligations.ResetMeetsInvariant : Prop :=
  State.Inv State.reset

/-- Boot under legal parameters completes where both images fit, and meets the invariant (R332, R333). -/
def Obligations.BootMeetsInvariant : Prop :=
  ∀ (p : Params) (im dm : List Word), legalParams p = true → im.length ≤ p.imemCells → dm.length ≤ p.dmemCells →
    ∃ s, boot p im dm = .next s ∧ s.Inv

/-- Every tick keeps the invariant: the guard's value (R23), when the override is present (R26, R138), five ticks an instruction
(R340), the PC in range after Fetch (R302), both memories canonical and within their capacities. -/
def Obligations.TickKeepsInvariant : Prop :=
  ∀ s t : State, s.Inv → tick s = .next t → t.Inv

/-- Every step keeps the invariant. -/
def Obligations.StepKeepsInvariant : Prop :=
  ∀ s t : State, s.Inv → step s = .next t → t.Inv

/-- R52: no tick and no step changes the instruction memory; the parameters stay as well (R37). -/
def Obligations.ProgramNeverChanges : Prop :=
  ∀ s t : State, (tick s = .next t ∨ step s = .next t) → t.imem = s.imem ∧ t.params = s.params

/-- R23: the guard register holds `GUARD_VALUE` from reset, is what a slot that is off reads, keeps its value in every
tick and step, in any state, and a tick that would write it is fatal. -/
def Obligations.GuardRegisterNeverWritten : Prop :=
  (∀ p : Params, readReg (.resetWith p) guardIndex = p.guardValue) ∧
  (∀ (s : State) (f : RegNo), readReg s (mapIndex s.params .off f) = readReg s guardIndex) ∧
  (∀ s t : State, (tick s = .next t ∨ step s = .next t) → readReg t guardIndex = readReg s guardIndex) ∧
  (∀ (s : State) (w : InstrWord), s.stop = false → fetchWord s = .ok w → s.stage = .writeback →
    (entryOf s.params (opcodeField w)).wb.dest = .reg → (entryOf s.params (opcodeField w)).map.rd = .off →
    tick s = .fault (.guardWrite (opcodeField w) s))

/-! ### Fatal conditions -/

/-- R301: a fatal tick commits nothing and records the state at its start; no further tick runs, the host's stop included; only
`reset()` leaves. -/
def Obligations.FatalTickCommitsNothing : Prop :=
  ∀ (s : State) (r : Fault), tick s = .fault r →
    faultState r = s ∧ (∀ n, run (n + 1) s = .fault r) ∧ (∀ n, sessionRun n (.fault r) = .fault r) ∧
    sessionStop (.fault r) = .fault r ∧ sessionReset (.fault r) = .next (.resetWith s.params)

/-- The fatal conditions of a tick (R302, R118), each with its stage, its cause, its info and its code, in the states that a run
reaches: a tick is fatal exactly on these, `MUX_RANGE` and the image kinds not among them (log entry 19, DEDUCED). And the device of
each kind under both names that the spec gives it, the one in the raise (R54, R57, R118, R172, R186) and the one in R302's
table, which no rule of the spec chooses between (log entry 10, DEDUCED). -/
def Obligations.FatalConditionsOfTicks : Prop :=
  (∀ (s : State) (r : Fault), s.Inv → s.stop = false →
    let d := decodeWires s.params (imemRead s.imem (efa s))
    let a := aluOperand d d.entry.alu.src0 s
    let b := aluOperand d d.entry.alu.src1 s
    (tick s = .fault r ↔
      (s.stage = .fetch ∧ imemOut s.params (efa s) = true ∧ r = .imemRange (efa s) s) ∨
      (s.stage = .memory ∧ d.entry.mem.op ≠ .none ∧ dmemOut s.params (effAddr d s) = true ∧
        r = .dmemRange (effAddr d s) s) ∨
      (s.stage = .execute ∧ d.entry.alu.op = .div ∧ b = 0 ∧ r = .divZero a b s) ∨
      (s.stage = .execute ∧ d.entry.alu.op = .div ∧ a = 0x8000000000000000#64 ∧ b = 0xFFFFFFFFFFFFFFFF#64 ∧
        r = .divOverflow a b s) ∨
      (s.stage = .writeback ∧ d.entry.wb.dest = .reg ∧ rdIndex s.params d = guardIndex ∧ r = .guardWrite d.opc s))) ∧
  (∀ (s : State) (a b : Word) (k : Opcode) (n : Nat),
    fatalState (.imemRange a s) = ⟨1, .instructionMemory, .fetchUnit, .address a, s⟩ ∧
    fatalState (.dmemRange a s) = ⟨2, .dataMemory, .lsu, .address a, s⟩ ∧
    fatalState (.divZero a b s) = ⟨3, .alu, .alu, .operands a b, s⟩ ∧
    fatalState (.divOverflow a b s) = ⟨4, .alu, .alu, .operands a b, s⟩ ∧
    fatalState (.guardWrite k s) = ⟨5, .registerFile, .regfile, .opcode k, s⟩ ∧
    fatalState (.muxRange n s) = ⟨6, .multiplexer, .multiplexer, .number n, s⟩)

/-- R306: what a fatal instruction has committed. Past its Fetch tick the fatal condition is one of the codes 2 to 5, the recorded
state is exactly the state before the fatal tick, in which the PC holds the instruction's address and, for a fatal Memory or
Writeback tick, the ALU's register its result. No register is written; no cell either, but the one that a store's Memory tick
wrote before a fatal Writeback tick. -/
def Obligations.FatalInstructionKeepsEarlierTicks : Prop :=
  ∀ (s : State) (r : Fault), s.Ready → step s = .fault r →
    let d := decodeWires s.params (imemRead s.imem (efa s))
    (faultState r).pc = efa s ∧ (faultState r).x = s.x ∧ (faultState r).imem = s.imem ∧
    ((faultCode r = 3 ∨ faultCode r = 4) ∧ faultState r = beforeExecute s ∧ (faultState r).dmem = s.dmem ∨
      faultCode r = 2 ∧ (faultState r).dmem = s.dmem ∧
        (∃ v, cycleAlu d s = .ok v ∧ (faultState r).aluOut = v ∧ faultState r = beforeMemory v s) ∨
      faultCode r = 5 ∧
        (∃ v, cycleAlu d s = .ok v ∧ (faultState r).aluOut = v ∧ faultState r = beforeWriteback d v s ∧
          (d.entry.mem.op ≠ .store → (faultState r).dmem = s.dmem) ∧
          (d.entry.mem.op = .store →
            (faultState r).dmem = memWrite s.dmem (cycleAddr d v s) (cycleData d v s))))

/-- R94, R172: under a well-formed table no tick is fatal by a guard write. -/
def Obligations.WellFormedTableNeverWritesGuard : Prop :=
  ∀ (s s' : State) (opc : Opcode), tableWellFormed s.params = true → tick s ≠ .fault (.guardWrite opc s')

/-! ### The ALU -/

/-- R185: the product is the low 64 bits of the exact signed product, which are those of the unsigned product. -/
def Obligations.SignedProductIsUnsignedProduct : Prop :=
  ∀ (p : Params) (a b : Word),
    alu p .mul a b = .ok (BitVec.ofInt 64 (a.toInt * b.toInt)) ∧ alu p .mul a b = .ok (a * b)

/-- R186: the quotient rounds toward zero, so that dividend = quotient * divisor + remainder with a remainder smaller than the
divisor and of the dividend's sign; the two pairs without a quotient are fatal, in the Execute tick only. -/
def Obligations.DivisionTruncatesTowardZero : Prop :=
  (∀ (p : Params) (a b : Word),
    (b = 0 → alu p .div a b = .error .divZero) ∧
    (a = 0x8000000000000000#64 → b = 0xFFFFFFFFFFFFFFFF#64 → alu p .div a b = .error .divOverflow) ∧
    (b ≠ 0 → ¬(a = 0x8000000000000000#64 ∧ b = 0xFFFFFFFFFFFFFFFF#64) →
      ∃ q, alu p .div a b = .ok q ∧
        (a.toInt - q.toInt * b.toInt).natAbs < b.toInt.natAbs ∧
        (0 ≤ a.toInt → 0 ≤ a.toInt - q.toInt * b.toInt) ∧
        (a.toInt ≤ 0 → a.toInt - q.toInt * b.toInt ≤ 0))) ∧
  (∀ (s : State) (r : Fault), tick s = .fault r → (faultCode r = 3 ∨ faultCode r = 4) → s.stage = .execute)

/-- R195, R196: a shift by less than 64 moves every bit and fills with zeros; a shift by 64 or more is `SHIFT_OOR`. -/
def Obligations.ShiftsAreLogical : Prop :=
  ∀ (p : Params) (a b : Word),
    (b.toNat < 64 →
      (∃ v, alu p .shl a b = .ok v ∧ ∀ i, i < 64 → v.getLsbD i = (decide (b.toNat ≤ i) && a.getLsbD (i - b.toNat))) ∧
      (∃ v, alu p .shr a b = .ok v ∧ ∀ i, i < 64 → v.getLsbD i = a.getLsbD (i + b.toNat))) ∧
    (64 ≤ b.toNat →
      alu p .shl a b = .ok (Config.shiftOor .shl a b) ∧ alu p .shr a b = .ok (Config.shiftOor .shr a b))

/-- R197, R198: a compare gives 1 or 0, not-equal on bit patterns, greater-than on signed values. -/
def Obligations.ComparesGiveOneOrZero : Prop :=
  ∀ (p : Params) (a b : Word),
    (a ≠ b → alu p .ne a b = .ok 1) ∧ (a = b → alu p .ne a b = .ok 0) ∧
    (b.toInt < a.toInt → alu p .gt a b = .ok 1) ∧ (a.toInt ≤ b.toInt → alu p .gt a b = .ok 0)

/-- R199: bits 52 to 63 are replaced by the low 12 bits of the second operand, the lower 52 bits are preserved. -/
def Obligations.SetHighBitsReplacesTwelveBits : Prop :=
  ∀ (p : Params) (a b : Word), ∃ v, alu p .sethi a b = .ok v ∧
    (∀ i, i < 52 → v.getLsbD i = a.getLsbD i) ∧ (∀ i, i < 12 → v.getLsbD (52 + i) = b.getLsbD i)

/-- The special values of the four binary64 operations (R187 to R190, R201): NaNs, which are NaN encodings whatever `FP_NAN` is;
infinite operands, with each other and with finite ones; zero divisors; the sign of every product and quotient, of a zero one
too; and the sign of a zero sum. What the fields of a pattern mean, that a NaN operand gives a NaN, and the values that R187 to
R190 do not list are IEEE-754's, which R201 names (log entry 18, PRESUMED). -/
def Obligations.FloatSpecialValues : Prop :=
  (∀ (op : FpOp) (a b : Word), f64IsNan a = true ∨ f64IsNan b = true → fpOp op a b = fpNan op a b) ∧
  (∀ (op : FpOp) (a b : Word), f64IsNan (fpNan op a b) = true) ∧
  (∀ a b : Word, f64IsInf a = true → f64Finite b →
    fpOp .fadd a b = a ∧ fpOp .fadd b a = a ∧ fpOp .fsub a b = a ∧ fpOp .fsub b a = signedInf (!f64Sign a)) ∧
  (∀ a b : Word, f64IsInf a = true → f64IsInf b = true →
    fpOp .fadd a b = (if f64Sign a = f64Sign b then a else fpNan .fadd a b) ∧
    fpOp .fsub a b = (if f64Sign a = f64Sign b then fpNan .fsub a b else a) ∧
    fpOp .fmul a b = signedInf (f64Sign a ^^ f64Sign b) ∧
    fpOp .fdiv a b = fpNan .fdiv a b) ∧
  (∀ a b : Word, f64IsInf a = true → f64Finite b →
    fpOp .fmul a b = (if f64Units b = 0 then fpNan .fmul a b else signedInf (f64Sign a ^^ f64Sign b)) ∧
    fpOp .fmul b a = (if f64Units b = 0 then fpNan .fmul b a else signedInf (f64Sign a ^^ f64Sign b)) ∧
    fpOp .fdiv a b = signedInf (f64Sign a ^^ f64Sign b) ∧
    fpOp .fdiv b a = signedZero (f64Sign a ^^ f64Sign b)) ∧
  (∀ a b : Word, f64Finite a → f64Finite b → f64Units b = 0 →
    fpOp .fdiv a b = (if f64Units a = 0 then fpNan .fdiv a b else signedInf (f64Sign a ^^ f64Sign b))) ∧
  (∀ a b : Word, f64Finite a → f64Finite b →
    f64Sign (fpOp .fmul a b) = (f64Sign a ^^ f64Sign b) ∧
    (f64Units b ≠ 0 → f64Sign (fpOp .fdiv a b) = (f64Sign a ^^ f64Sign b))) ∧
  (∀ a b : Word, f64Finite a → f64Finite b →
    (f64Units a + f64Units b = 0 → fpOp .fadd a b = signedZero (f64Sign a && f64Sign b)) ∧
    (f64Units a - f64Units b = 0 → fpOp .fsub a b = signedZero (f64Sign a && !f64Sign b))) ∧
  (∀ x : Word, f64Finite x → fpOp .fsub x x = 0)

/-- R201: a sum or a difference of finite values is the exact one rounded to nearest, ties to even: the nearest finite value
below 2^1024 - 2^970 in magnitude, and from there on the infinity of the exact sign (encoding and overflow as in IEEE-754, which
R201 names: log entry 18). -/
def Obligations.FloatSumRoundsToNearestEven : Prop :=
  ∀ a b : Word, f64Finite a → f64Finite b →
    RoundsTo (f64Units a + f64Units b) 1 (fpOp .fadd a b) ∧
    RoundsTo (f64Units a - f64Units b) 1 (fpOp .fsub a b)

/-- R201: a product and, for a divisor that is not zero, a quotient of finite values are the exact ones rounded to nearest, ties
to even: the nearest finite value below 2^1024 - 2^970 in magnitude, and from there on the infinity whose sign is the
exclusive-or of the operands' signs (encoding and overflow as in IEEE-754, which R201 names: log entry 18). -/
def Obligations.FloatProductRoundsToNearestEven : Prop :=
  ∀ a b : Word, f64Finite a → f64Finite b →
    RoundsTo (f64Units a * f64Units b) (2 ^ 1074) (fpOp .fmul a b) ∧
    (overflowUnits * 2 ^ 1074 ≤ (f64Units a * f64Units b).natAbs →
      fpOp .fmul a b = signedInf (f64Sign a ^^ f64Sign b)) ∧
    (f64Units b ≠ 0 →
      RoundsTo (f64Units a * 2 ^ 1074) (f64Units b) (fpOp .fdiv a b) ∧
      (overflowUnits * (f64Units b).natAbs ≤ (f64Units a * 2 ^ 1074).natAbs →
        fpOp .fdiv a b = signedInf (f64Sign a ^^ f64Sign b)))

/-! ### Memory -/

/-- R57, R59, R66: a cell read after a cell write is the value written where both addresses select the same cell, bits 2..0
ignored, and the cell as before everywhere else. -/
def Obligations.StoreThenLoadReturnsValue : Prop :=
  ∀ (m : Memory) (a b v : Word), m.wf →
    (a >>> 3 = b >>> 3 → memRead (memWrite m a v) b = v) ∧
    (a >>> 3 ≠ b >>> 3 → memRead (memWrite m a v) b = memRead m b)

/-- Equal memories are equal data: canonical memories that read alike at every byte are the same list (log entry 11). -/
def Obligations.CanonicalMemoriesEqual : Prop :=
  ∀ m n : Memory, m.wf → n.wf → (∀ a, readByte m a = readByte n a) → m = n

/-! ### Instructions under their REF entries -/

/-- ADD, SUB, MUL, ADDI (R252 to R254, R256): the result goes to `x[rd]`, the next instruction is at `A + 4`. -/
def Obligations.IntegerArithmeticResults : Prop :=
  ∀ (s : State) (f : Fields),
    (s.ReadyFor .add → exec (.add f) s = .next (afterRegWrite s f.rd (readGpr s f.rs + readGpr s f.rt))) ∧
    (s.ReadyFor .sub → exec (.sub f) s = .next (afterRegWrite s f.rd (readGpr s f.rs - readGpr s f.rt))) ∧
    (s.ReadyFor .mul → exec (.mul f) s = .next (afterRegWrite s f.rd (readGpr s f.rs * readGpr s f.rt))) ∧
    (s.ReadyFor .addi → exec (.addi f) s = .next (afterRegWrite s f.rd (readGpr s f.rs + f.imm.setWidth 64)))

/-- DIV (R255): the quotient goes to `x[rd]`; a zero divisor and `-2^63 / -1` are fatal in the Execute tick, with the Fetch and
Decode ticks committed and nothing else. -/
def Obligations.DivisionResultsAndFaults : Prop :=
  ∀ (s : State) (f : Fields), s.ReadyFor .div →
    (readGpr s f.rt = 0 → exec (.div f) s = .fault (.divZero (readGpr s f.rs) 0 (beforeExecute s))) ∧
    (readGpr s f.rs = intMin → readGpr s f.rt = BitVec.allOnes 64 →
      exec (.div f) s = .fault (.divOverflow intMin (BitVec.allOnes 64) (beforeExecute s))) ∧
    (readGpr s f.rt ≠ 0 → ¬(readGpr s f.rs = intMin ∧ readGpr s f.rt = BitVec.allOnes 64) →
      exec (.div f) s = .next (afterRegWrite s f.rd
        (BitVec.ofInt 64 (Int.tdiv (readGpr s f.rs).toInt (readGpr s f.rt).toInt))))

/-- FADD, FSUB, FMUL, FDIV (R257 to R260): the binary64 result goes to `x[rd]`, no condition faults. -/
def Obligations.FloatArithmeticResults : Prop :=
  ∀ (s : State) (f : Fields),
    (s.ReadyFor .fadd → exec (.fadd f) s = .next (afterRegWrite s f.rd (fpOp .fadd (readGpr s f.rs) (readGpr s f.rt)))) ∧
    (s.ReadyFor .fsub → exec (.fsub f) s = .next (afterRegWrite s f.rd (fpOp .fsub (readGpr s f.rs) (readGpr s f.rt)))) ∧
    (s.ReadyFor .fmul → exec (.fmul f) s = .next (afterRegWrite s f.rd (fpOp .fmul (readGpr s f.rs) (readGpr s f.rt)))) ∧
    (s.ReadyFor .fdiv → exec (.fdiv f) s = .next (afterRegWrite s f.rd (fpOp .fdiv (readGpr s f.rs) (readGpr s f.rt))))

/-- AND, OR, XOR, NOT (R261 to R264). -/
def Obligations.LogicResults : Prop :=
  ∀ (s : State) (f : Fields),
    (s.ReadyFor .and → exec (.and f) s = .next (afterRegWrite s f.rd (readGpr s f.rs &&& readGpr s f.rt))) ∧
    (s.ReadyFor .or → exec (.or f) s = .next (afterRegWrite s f.rd (readGpr s f.rs ||| readGpr s f.rt))) ∧
    (s.ReadyFor .xor → exec (.xor f) s = .next (afterRegWrite s f.rd (readGpr s f.rs ^^^ readGpr s f.rt))) ∧
    (s.ReadyFor .not → exec (.not f) s = .next (afterRegWrite s f.rd (~~~(readGpr s f.rs))))

/-- SHL, SHR, SHLI, SHRI (R265 to R268): logical shifts, by 64 or more `SHIFT_OOR`, which completes as well. -/
def Obligations.ShiftResults : Prop :=
  ∀ (s : State) (f : Fields),
    (s.ReadyFor .shl → exec (.shl f) s = .next (afterRegWrite s f.rd
      (if (readGpr s f.rt).toNat < 64 then readGpr s f.rs <<< (readGpr s f.rt).toNat
       else Config.shiftOor .shl (readGpr s f.rs) (readGpr s f.rt)))) ∧
    (s.ReadyFor .shr → exec (.shr f) s = .next (afterRegWrite s f.rd
      (if (readGpr s f.rt).toNat < 64 then readGpr s f.rs >>> (readGpr s f.rt).toNat
       else Config.shiftOor .shr (readGpr s f.rs) (readGpr s f.rt)))) ∧
    (s.ReadyFor .shli → exec (.shli f) s = .next (afterRegWrite s f.rd
      (if f.imm.toNat < 64 then readGpr s f.rs <<< f.imm.toNat
       else Config.shiftOor .shl (readGpr s f.rs) (f.imm.setWidth 64)))) ∧
    (s.ReadyFor .shri → exec (.shri f) s = .next (afterRegWrite s f.rd
      (if f.imm.toNat < 64 then readGpr s f.rs >>> f.imm.toNat
       else Config.shiftOor .shr (readGpr s f.rs) (f.imm.setWidth 64))))

/-- BNE and BGT (R269, R270): no register is written; the next instruction is at `x[rs]` if the compare holds, else at
`A + 4`. -/
def Obligations.ConditionalBranches : Prop :=
  ∀ (s : State) (f : Fields),
    (s.ReadyFor .bne → exec (.bne f) s = .next
      (if readGpr s f.rd ≠ readGpr s f.rt then afterCycle s 1 (readGpr s f.rs) else afterCycle s 0 (efa s + 4))) ∧
    (s.ReadyFor .bgt → exec (.bgt f) s = .next
      (if (readGpr s f.rt).toInt < (readGpr s f.rd).toInt then afterCycle s 1 (readGpr s f.rs)
       else afterCycle s 0 (efa s + 4)))

/-- R302, R304: under any table, a load's or a store's address out of range is fatal in the Memory tick, with the address
recorded and the state before that tick, for every numbered row and for every class (a CALL or a RET among them). -/
def Obligations.DataAccessOutOfRangeIsFatal : Prop :=
  (∀ (k : Opcode) (f : Fields) (s : State) (r : Word), s.Ready →
    cycleAlu (lookup s.params k f) s = .ok r → (entryOf s.params k).mem.op ≠ .none →
    dmemOut s.params (cycleAddr (lookup s.params k f) r s) = true →
    exec (.numbered k f) s = .fault (.dmemRange (cycleAddr (lookup s.params k f) r s) (beforeMemory r s))) ∧
  (∀ (m : Mnemonic) (f : Fields) (s : State) (r : Word), s.Ready →
    cycleAlu (lookup s.params (s.params.opc m) f) s = .ok r → (entryOf s.params (s.params.opc m)).mem.op ≠ .none →
    dmemOut s.params (cycleAddr (lookup s.params (s.params.opc m) f) r s) = true →
    exec (.named m f) s =
      .fault (.dmemRange (cycleAddr (lookup s.params (s.params.opc m) f) r s) (beforeMemory r s)))

/-- CALL (R271): the return address `A + 4` goes to the cell at the link-register-relative address, where that is in range, the
next instruction is at `x[rs]`, no register and no byte outside that cell changes. -/
def Obligations.CallStoresReturnAddress : Prop :=
  ∀ (s : State) (f : Fields), s.ReadyFor .call →
    let a := Config.linkRel (readGpr s s.params.linkIndex) f.imm
    dmemOut s.params a = false →
      exec (.call f) s = .next
        { afterCycle s (readGpr s f.rs) (readGpr s f.rs) with
          dmem := memWrite s.dmem a (efa s + 4),
          memRdata := memRead (memWrite s.dmem a (efa s + 4)) 0 } ∧
      (s.dmem.wf → ∀ b, (b < 8 * dmemIndex a ∨ 8 * dmemIndex a + 8 ≤ b) →
        readByte (memWrite s.dmem a (efa s + 4)) b = readByte s.dmem b)

/-- RET (R272): the next instruction is at the address in the cell at the link-register-relative address, where that is in
range, no register and no cell changes. -/
def Obligations.ReturnLoadsTarget : Prop :=
  ∀ (s : State) (f : Fields), s.ReadyFor .ret →
    let a := Config.linkRel (readGpr s s.params.linkIndex) f.imm
    dmemOut s.params a = false →
      exec (.ret f) s = .next (afterCycle s s.params.aluSentinel (memRead s.dmem a))

/-- LOAD (R273): the cell at `x[rs] + imm` goes to `x[rd]`; an address out of range is fatal in the Memory tick. -/
def Obligations.LoadReadsCell : Prop :=
  ∀ (s : State) (f : Fields), s.ReadyFor .load →
    let ea := readGpr s f.rs + f.imm.setWidth 64
    (dmemOut s.params ea = false →
      exec (.load f) s = .next
        { afterCycle s ea (efa s + 4) with x := writeReg s.x (regIndex f.rd) (memRead s.dmem ea) }) ∧
    (dmemOut s.params ea = true → exec (.load f) s = .fault (.dmemRange ea (beforeMemory ea s)))

/-- STORE (R274): `x[rs]` goes to the cell at `x[rt] + imm`, no register and no byte outside that cell changes; an address out of
range is fatal in the Memory tick. -/
def Obligations.StoreWritesCell : Prop :=
  ∀ (s : State) (f : Fields), s.ReadyFor .store →
    let ea := readGpr s f.rt + f.imm.setWidth 64
    (dmemOut s.params ea = false →
      exec (.store f) s = .next
        { afterCycle s ea (efa s + 4) with
          dmem := memWrite s.dmem ea (readGpr s f.rs),
          memRdata := memRead (memWrite s.dmem ea (readGpr s f.rs)) 0 }) ∧
    (s.dmem.wf → ∀ b, (b < 8 * dmemIndex ea ∨ 8 * dmemIndex ea + 8 ≤ b) →
      readByte (memWrite s.dmem ea (readGpr s f.rs)) b = readByte s.dmem b) ∧
    (dmemOut s.params ea = true → exec (.store f) s = .fault (.dmemRange ea (beforeMemory ea s)))

/-- MOV, MOVI, MOVHI (R275 to R277). -/
def Obligations.MoveResults : Prop :=
  ∀ (s : State) (f : Fields),
    (s.ReadyFor .mov → exec (.mov f) s = .next (afterRegWrite s f.rd (readGpr s f.rs))) ∧
    (s.ReadyFor .movi → exec (.movi f) s = .next (afterRegWrite s f.rd (f.imm.setWidth 64))) ∧
    (s.ReadyFor .movhi → exec (.movhi f) s = .next (afterRegWrite s f.rd
      ((readGpr s f.rd &&& 0x000FFFFFFFFFFFFF#64) ||| (f.imm.setWidth 64 <<< 52))))

/-- IN and OUT (R278, R279): no register, cell or device changes. -/
def Obligations.InputOutputStubs : Prop :=
  ∀ (s : State) (f : Fields),
    (s.ReadyFor .inp → exec (.inp f) s = .next (afterCycle s s.params.aluSentinel (efa s + 4))) ∧
    (s.ReadyFor .outp → exec (.outp f) s = .next (afterCycle s s.params.aluSentinel (efa s + 4)))

/-- HALT (R280): the machine stops at the Writeback edge, with `pc` the halt's address and the next address in `redirect`; no
further step or tick changes anything (answering the same state is how the model says that none runs: log entry 9,
DESIGN CHOICE). -/
def Obligations.HaltStopsMachine : Prop :=
  ∀ (s : State) (f : Fields), s.ReadyFor .halt →
    exec (.halt f) s = .next { afterCycle s s.params.aluSentinel (efa s + 4) with stop := true } ∧
    ∀ t, exec (.halt f) s = .next t → step t = .next t ∧ tick t = .next t

/-- R251: an opcode that is no instruction's number executes the disabled entry: no register and no cell changes, the ALU output
is the sentinel, and the next instruction is at `A + 4`, for the row itself and, under legal parameters, for the row of
the opcode's number. -/
def Obligations.UndefinedOpcodeIsNoOp : Prop :=
  ∀ (s : State) (k : Opcode) (f : Fields), s.Ready → s.params.defined k = false →
    exec (.undefined k f) s = .next (afterCycle s s.params.aluSentinel (efa s + 4)) ∧
    (legalParams s.params = true →
      exec (.numbered k f) s = .next (afterCycle s s.params.aluSentinel (efa s + 4)))
end

