-- ==== Sys2Proof/Laws/PerInstr.lean ====
section
/-! SUPPORT. Statements for all instructions, made one per instruction. `RowFields`: an instruction is its row together with
its fields, so nothing of it is lost between the syntax and the codec. -/

namespace Sys2Proof.Laws

/-- An instruction is the instruction of its row with its fields. -/
def RowFields.Statement (i : Instr) : Prop := i.row.instr i.fields = i

theorem RowFields.opcode0 (f : Fields) : RowFields.Statement (.opcode0 f) := rfl
theorem RowFields.opcode1 (f : Fields) : RowFields.Statement (.opcode1 f) := rfl
theorem RowFields.opcode2 (f : Fields) : RowFields.Statement (.opcode2 f) := rfl
theorem RowFields.opcode3 (f : Fields) : RowFields.Statement (.opcode3 f) := rfl
theorem RowFields.opcode4 (f : Fields) : RowFields.Statement (.opcode4 f) := rfl
theorem RowFields.opcode5 (f : Fields) : RowFields.Statement (.opcode5 f) := rfl
theorem RowFields.opcode6 (f : Fields) : RowFields.Statement (.opcode6 f) := rfl
theorem RowFields.opcode7 (f : Fields) : RowFields.Statement (.opcode7 f) := rfl
theorem RowFields.opcode8 (f : Fields) : RowFields.Statement (.opcode8 f) := rfl
theorem RowFields.opcode9 (f : Fields) : RowFields.Statement (.opcode9 f) := rfl
theorem RowFields.opcode10 (f : Fields) : RowFields.Statement (.opcode10 f) := rfl
theorem RowFields.opcode11 (f : Fields) : RowFields.Statement (.opcode11 f) := rfl
theorem RowFields.opcode12 (f : Fields) : RowFields.Statement (.opcode12 f) := rfl
theorem RowFields.opcode13 (f : Fields) : RowFields.Statement (.opcode13 f) := rfl
theorem RowFields.opcode14 (f : Fields) : RowFields.Statement (.opcode14 f) := rfl
theorem RowFields.opcode15 (f : Fields) : RowFields.Statement (.opcode15 f) := rfl
theorem RowFields.opcode16 (f : Fields) : RowFields.Statement (.opcode16 f) := rfl
theorem RowFields.opcode17 (f : Fields) : RowFields.Statement (.opcode17 f) := rfl
theorem RowFields.opcode18 (f : Fields) : RowFields.Statement (.opcode18 f) := rfl
theorem RowFields.opcode19 (f : Fields) : RowFields.Statement (.opcode19 f) := rfl
theorem RowFields.opcode20 (f : Fields) : RowFields.Statement (.opcode20 f) := rfl
theorem RowFields.opcode21 (f : Fields) : RowFields.Statement (.opcode21 f) := rfl
theorem RowFields.opcode22 (f : Fields) : RowFields.Statement (.opcode22 f) := rfl
theorem RowFields.opcode23 (f : Fields) : RowFields.Statement (.opcode23 f) := rfl
theorem RowFields.opcode24 (f : Fields) : RowFields.Statement (.opcode24 f) := rfl
theorem RowFields.opcode25 (f : Fields) : RowFields.Statement (.opcode25 f) := rfl
theorem RowFields.opcode26 (f : Fields) : RowFields.Statement (.opcode26 f) := rfl
theorem RowFields.opcode27 (f : Fields) : RowFields.Statement (.opcode27 f) := rfl
theorem RowFields.opcode28 (f : Fields) : RowFields.Statement (.opcode28 f) := rfl
theorem RowFields.opcode29 (f : Fields) : RowFields.Statement (.opcode29 f) := rfl
theorem RowFields.opcode30 (f : Fields) : RowFields.Statement (.opcode30 f) := rfl
theorem RowFields.opcode31 (f : Fields) : RowFields.Statement (.opcode31 f) := rfl
theorem RowFields.add (f : Fields) : RowFields.Statement (.add f) := rfl
theorem RowFields.sub (f : Fields) : RowFields.Statement (.sub f) := rfl
theorem RowFields.mul (f : Fields) : RowFields.Statement (.mul f) := rfl
theorem RowFields.div (f : Fields) : RowFields.Statement (.div f) := rfl
theorem RowFields.addi (f : Fields) : RowFields.Statement (.addi f) := rfl
theorem RowFields.fadd (f : Fields) : RowFields.Statement (.fadd f) := rfl
theorem RowFields.fsub (f : Fields) : RowFields.Statement (.fsub f) := rfl
theorem RowFields.fmul (f : Fields) : RowFields.Statement (.fmul f) := rfl
theorem RowFields.fdiv (f : Fields) : RowFields.Statement (.fdiv f) := rfl
theorem RowFields.and (f : Fields) : RowFields.Statement (.and f) := rfl
theorem RowFields.or (f : Fields) : RowFields.Statement (.or f) := rfl
theorem RowFields.xor (f : Fields) : RowFields.Statement (.xor f) := rfl
theorem RowFields.not (f : Fields) : RowFields.Statement (.not f) := rfl
theorem RowFields.shl (f : Fields) : RowFields.Statement (.shl f) := rfl
theorem RowFields.shr (f : Fields) : RowFields.Statement (.shr f) := rfl
theorem RowFields.shli (f : Fields) : RowFields.Statement (.shli f) := rfl
theorem RowFields.shri (f : Fields) : RowFields.Statement (.shri f) := rfl
theorem RowFields.bne (f : Fields) : RowFields.Statement (.bne f) := rfl
theorem RowFields.bgt (f : Fields) : RowFields.Statement (.bgt f) := rfl
theorem RowFields.call (f : Fields) : RowFields.Statement (.call f) := rfl
theorem RowFields.ret (f : Fields) : RowFields.Statement (.ret f) := rfl
theorem RowFields.load (f : Fields) : RowFields.Statement (.load f) := rfl
theorem RowFields.store (f : Fields) : RowFields.Statement (.store f) := rfl
theorem RowFields.mov (f : Fields) : RowFields.Statement (.mov f) := rfl
theorem RowFields.movi (f : Fields) : RowFields.Statement (.movi f) := rfl
theorem RowFields.movhi (f : Fields) : RowFields.Statement (.movhi f) := rfl
theorem RowFields.inp (f : Fields) : RowFields.Statement (.inp f) := rfl
theorem RowFields.outp (f : Fields) : RowFields.Statement (.outp f) := rfl
theorem RowFields.halt (f : Fields) : RowFields.Statement (.halt f) := rfl
theorem RowFields.undefined (opc : Opcode) (f : Fields) : RowFields.Statement (.undefined opc f) := rfl

end Sys2Proof.Laws
end

