-- ==== Sys2Proof/Laws/Decode.lean ====
section
/-! SUPPORT. The laws of the codec's syntax side: the row, the fields and the opcode of a numbered and of a named
instruction. -/

namespace Sys2Proof

/-- What holds of the 32 opcode numbers one by one holds of every opcode. -/
theorem opcode_cases {P : Opcode → Prop} (h : ∀ k : Fin 32, P (BitVec.ofFin k)) (k : Opcode) : P k := h k.toFin

@[simp] theorem numbered_row (k : Opcode) (f : Fields) : (Instr.numbered k f).row = .numbered k := by
  revert k
  refine opcode_cases fun k => ?_
  fin_cases k <;> rfl

@[simp] theorem numbered_fields (k : Opcode) (f : Fields) : (Instr.numbered k f).fields = f := by
  revert k
  refine opcode_cases fun k => ?_
  fin_cases k <;> rfl

@[simp] theorem named_row (m : Mnemonic) (f : Fields) : (Instr.named m f).row = .named m := by cases m <;> rfl

@[simp] theorem named_fields (m : Mnemonic) (f : Fields) : (Instr.named m f).fields = f := by cases m <;> rfl

@[simp] theorem row_instr_row (r : Row) (f : Fields) : (r.instr f).row = r := by
  cases r with
  | numbered k => exact numbered_row k f
  | named m => exact named_row m f
  | undefined k => rfl

@[simp] theorem row_instr_fields (r : Row) (f : Fields) : (r.instr f).fields = f := by
  cases r with
  | numbered k => exact numbered_fields k f
  | named m => exact named_fields m f
  | undefined k => rfl

/-- A class that an opcode number belongs to has that number (30_encoding.md R95). -/
theorem classOf_some {p : Params} {k : Opcode} {m : Mnemonic} (h : p.classOf k = some m) : p.opc m = k := by
  simpa using List.find?_some h

/-- An opcode number that belongs to no class is no `OPC_<name>`. -/
theorem classOf_none {p : Params} {k : Opcode} (h : p.classOf k = none) (m : Mnemonic) : p.opc m ≠ k := by
  have hm : m ∈ Mnemonic.all := by cases m <;> decide
  simpa using List.find?_eq_none.mp h m hm

end Sys2Proof
end

