-- ==== Sys2Proof/Laws/Memory.lean ====
section
/-! SUPPORT. The laws of the memories: a byte read after a byte write, the canonical form kept by every operation, and the
bytes that a cell is made of. -/

namespace Sys2Proof.Machine

/-! ### Reading after writing one byte -/

@[simp] theorem readByte_nil (a : Nat) : readByte [] a = unlistedByte := rfl

theorem readByte_cons (c : Host.Cell) (m : Memory) (a : Nat) :
    readByte (c :: m) a = if c.1 = a then c.2 else readByte m a := rfl

theorem readByte_unlisted {m : Memory} {a : Nat} (h : ∀ c ∈ m, c.1 ≠ a) : readByte m a = unlistedByte := by
  induction m with
  | nil => rfl
  | cons c m ih =>
    rw [readByte_cons, if_neg (h c (by simp))]
    exact ih (fun e he => h e (by simp [he]))

theorem readByte_consByte {m : Memory} {k : Nat} (h : ∀ c ∈ m, k < c.1) (v : Byte) (a : Nat) :
    readByte (consByte k v m) a = if a = k then v else readByte m a := by
  unfold consByte
  by_cases hv : v = unlistedByte
  · rw [if_pos hv]
    by_cases ha : a = k
    · rw [if_pos ha, hv, ha]
      exact readByte_unlisted (fun c hc => (h c hc).ne')
    · rw [if_neg ha]
  · rw [if_neg hv, readByte_cons]
    by_cases ha : a = k
    · simp [ha]
    · rw [if_neg ha, if_neg (fun e => ha e.symm)]

/-- A byte read after a byte write: the value written at its address, and the byte as before everywhere else. -/
theorem readByte_writeByte {m : Memory} (hm : m.wf) (k : Nat) (v : Byte) (a : Nat) :
    readByte (writeByte m k v) a = if a = k then v else readByte m a := by
  induction m with
  | nil => simpa [writeByte] using readByte_consByte (m := []) (k := k) (by simp) v a
  | cons c m ih =>
    obtain ⟨hp, hz⟩ := hm
    rw [List.pairwise_cons] at hp
    have hm' : Memory.wf m := ⟨hp.2, fun e he => hz e (by simp [he])⟩
    unfold writeByte
    by_cases h1 : k < c.1
    · rw [if_pos h1, readByte_consByte]
      intro e he
      rcases List.mem_cons.mp he with rfl | he
      · exact h1
      · exact h1.trans (hp.1 e he)
    · rw [if_neg h1]
      by_cases h2 : k = c.1
      · rw [if_pos h2, readByte_consByte (fun e he => h2.trans_lt (hp.1 e he)), readByte_cons]
        by_cases ha : a = k
        · simp [ha]
        · rw [if_neg ha, if_neg ha, if_neg (fun e => ha (e.symm.trans h2.symm))]
      · rw [if_neg h2, readByte_cons, readByte_cons, ih hm']
        by_cases ha : a = k
        · rw [if_pos ha, if_neg (fun e => h2 (ha.symm.trans e.symm))]
          simp [ha]
        · rw [if_neg ha, if_neg ha]

/-! ### The canonical form -/

@[simp] theorem wf_nil : Memory.wf [] := ⟨List.Pairwise.nil, by simp⟩

theorem mem_consByte {k : Nat} {v : Byte} {m : Memory} {c : Host.Cell} (h : c ∈ consByte k v m) :
    c = (k, v) ∨ c ∈ m := by
  unfold consByte at h
  split at h
  · exact .inr h
  · exact List.mem_cons.mp h

/-- The entries of a written memory are old ones or at the written address. -/
theorem mem_writeByte {k : Nat} {v : Byte} {m : Memory} {c : Host.Cell} (h : c ∈ writeByte m k v) :
    c = (k, v) ∨ c ∈ m := by
  induction m with
  | nil => exact mem_consByte h
  | cons e m ih =>
    unfold writeByte at h
    split at h
    · exact mem_consByte h
    · split at h
      · rcases mem_consByte h with h | h
        · exact .inl h
        · exact .inr (by simp [h])
      · rcases List.mem_cons.mp h with rfl | h
        · exact .inr (by simp)
        · rcases ih h with h | h
          · exact .inl h
          · exact .inr (by simp [h])

theorem consByte_wf {k : Nat} {v : Byte} {m : Memory} (hm : m.wf) (h : ∀ c ∈ m, k < c.1) : (consByte k v m).wf := by
  unfold consByte
  split
  · exact hm
  · next hv =>
    refine ⟨List.pairwise_cons.mpr ⟨h, hm.1⟩, fun c hc => ?_⟩
    rcases List.mem_cons.mp hc with rfl | hc
    · exact hv
    · exact hm.2 c hc

/-- A byte write keeps the canonical form. -/
theorem writeByte_wf {m : Memory} (hm : m.wf) (k : Nat) (v : Byte) : (writeByte m k v).wf := by
  induction m with
  | nil => exact consByte_wf hm (by simp)
  | cons c m ih =>
    have hp := List.pairwise_cons.mp hm.1
    have hm' : Memory.wf m := ⟨hp.2, fun e he => hm.2 e (by simp [he])⟩
    unfold writeByte
    split
    · next h1 =>
      refine consByte_wf hm (fun e he => ?_)
      rcases List.mem_cons.mp he with rfl | he
      · exact h1
      · exact h1.trans (hp.1 e he)
    · next h1 =>
      split
      · next h2 => exact consByte_wf hm' (fun e he => h2.trans_lt (hp.1 e he))
      · next h2 =>
        refine ⟨List.pairwise_cons.mpr ⟨fun e he => ?_, (ih hm').1⟩, fun e he => ?_⟩
        · rcases mem_writeByte he with rfl | he
          · show c.1 < k
            omega
          · exact hp.1 e he
        · rcases List.mem_cons.mp he with rfl | he
          · exact hm.2 _ (by simp)
          · exact (ih hm').2 e he

theorem writeBytes_wf {m : Memory} (hm : m.wf) (base : Nat) (v : Word) (n : Nat) : (writeBytes m base v n).wf := by
  induction n with
  | zero => exact hm
  | succ n ih => exact writeByte_wf ih _ _

/-- A cell write keeps the canonical form. -/
theorem writeCell_wf {m : Memory} (hm : m.wf) (i : Nat) (v : Word) : (writeCell m i v).wf := writeBytes_wf hm _ _ _

/-- `MemWrite` keeps the canonical form. -/
theorem memWrite_wf {m : Memory} (hm : m.wf) (a v : Word) : (memWrite m a v).wf := writeCell_wf hm _ _

/-- Placing an instruction word keeps the canonical form. -/
theorem placeWord_wf {m : Memory} (hm : m.wf) (a : Word) (w : InstrWord) : (placeWord m a w).wf :=
  writeByte_wf (writeByte_wf (writeByte_wf (writeByte_wf hm _ _) _ _) _ _) _ _

theorem loadCells_wf {m : Memory} (hm : m.wf) (i : Nat) (image : List Word) : (loadCells m i image).wf := by
  induction image generalizing m i with
  | nil => exact hm
  | cons v rest ih => exact ih (writeCell_wf hm i v) (i + 1)

/-- A loaded memory is in canonical form. -/
theorem imageMemory_wf (image : List Word) : (imageMemory image).wf := loadCells_wf wf_nil 0 image

/-- Both memories of the reset state are in canonical form. -/
theorem reset_memories_wf (p : Params) : (State.resetWith p).imem.wf ∧ (State.resetWith p).dmem.wf := ⟨wf_nil, wf_nil⟩

/-! ### The bytes of a cell -/

/-- A byte read after the first `n` bytes of a value are written from `base` on. -/
theorem readByte_writeBytes {m : Memory} (hm : m.wf) (base : Nat) (v : Word) (n a : Nat) :
    readByte (writeBytes m base v n) a =
      if base ≤ a ∧ a < base + n then cellByte v (a - base) else readByte m a := by
  induction n with
  | zero => simp [writeBytes]
  | succ n ih =>
    rw [writeBytes, readByte_writeByte (writeBytes_wf hm base v n), ih]
    by_cases h : a = base + n
    · subst h
      rw [if_pos rfl, if_pos ⟨Nat.le_add_right _ _, by omega⟩, Nat.add_sub_cancel_left]
    · rw [if_neg h]
      by_cases h2 : base ≤ a ∧ a < base + n
      · rw [if_pos h2, if_pos ⟨h2.1, by omega⟩]
      · rw [if_neg h2, if_neg (by omega)]

/-- A byte read after a cell write: the cell's byte inside the cell, as before outside it. -/
theorem readByte_writeCell {m : Memory} (hm : m.wf) (i : Nat) (v : Word) (a : Nat) :
    readByte (writeCell m i v) a = if 8 * i ≤ a ∧ a < 8 * i + 8 then cellByte v (a - 8 * i) else readByte m a :=
  readByte_writeBytes hm (8 * i) v 8 a

/-- Two memories that agree on the eight bytes of a cell hold the same cell. -/
theorem readCell_congr {m m' : Memory} {i : Nat} (h : ∀ k < 8, readByte m (8 * i + k) = readByte m' (8 * i + k)) :
    readCell m i = readCell m' i := by
  unfold readCell cellBase
  rw [h 7 (by omega), h 6 (by omega), h 5 (by omega), h 4 (by omega), h 3 (by omega), h 2 (by omega), h 1 (by omega)]
  have h0 := h 0 (by omega)
  rw [Nat.add_zero] at h0
  rw [h0]

/-- The entries of a written cell lie inside it, or were there before. -/
theorem mem_writeCell {m : Memory} {i : Nat} {v : Word} {c : Host.Cell} (h : c ∈ writeCell m i v) :
    (8 * i ≤ c.1 ∧ c.1 < 8 * i + 8) ∨ c ∈ m := by
  have key : ∀ n, n ≤ 8 → ∀ c, c ∈ writeBytes m (8 * i) v n → (8 * i ≤ c.1 ∧ c.1 < 8 * i + 8) ∨ c ∈ m := by
    intro n
    induction n with
    | zero => exact fun _ c hc => .inr hc
    | succ n ih =>
      intro hn c hc
      rcases mem_writeByte hc with rfl | hc
      · exact .inl ⟨Nat.le_add_right _ _, Nat.add_lt_add_left hn _⟩
      · exact ih (by omega) c hc
  exact key 8 le_rfl c h

/-! ### The neutral read -/

/-- The neutral address is always in range: a memory has at least one cell (R5, 45_lsu.md R215). -/
@[simp] theorem dmemOut_neutral (p : Params) : dmemOut p Config.neutralAddr = false := by
  simp [dmemOut, dmemIndex, Config.neutralAddr, Params.dmemCells]

end Sys2Proof.Machine
end

