-- ==== Sys2Proof/Laws/State.lean ====
section
/-! SUPPORT. The small lemmas of the state: the clocked register, each field after an edge, after a placed instruction, after
the host's stop, and at reset. With them no later proof unfolds a record update. -/

namespace Sys2Proof.Machine

/-! ### The clocked register -/

@[simp] theorem settled_read {α : Type} (v : α) : (ClockedReg.settled v).read = v := rfl

@[simp] theorem write_read {α : Type} (r : ClockedReg α) (v : α) : (r.write v).read = r.read := rfl

@[simp] theorem write_edge_read {α : Type} (r : ClockedReg α) (v : α) : (r.write v).edge.read = v := rfl

@[simp] theorem settled_edge_read {α : Type} (v : α) : (ClockedReg.settled v).edge.read = v := rfl

@[simp] theorem writeIf_read {α : Type} (r : ClockedReg α) (b : Bool) (v : α) : (r.writeIf b v).read = r.read := by
  cases b <;> rfl

@[simp] theorem settled_writeIf_edge_read {α : Type} (c : α) (b : Bool) (v : α) :
    ((ClockedReg.settled c).writeIf b v).edge.read = if b then v else c := by
  cases b <;> rfl

/-! ### Each field after the edge of a tick (R118) -/

section nextState
variable (d : Decoded) (v : Word) (s : State)

@[simp] theorem nextState_params : (nextState d v s).params = s.params := rfl

@[simp] theorem nextState_pc : (nextState d v s).pc = if enabled .fetch s then efa s else s.pc :=
  settled_writeIf_edge_read _ _ _

@[simp] theorem nextState_redirect : (nextState d v s).redirect = pcWrite d s := rfl

@[simp] theorem nextState_stage : (nextState d v s).stage = nextStage s.stage := rfl

@[simp] theorem nextState_x : (nextState d v s).x = applyRegWrite s.x (regWrite d s) := rfl

@[simp] theorem nextState_aluOut : (nextState d v s).aluOut = v := rfl

@[simp] theorem nextState_memRdata : (nextState d v s).memRdata = memRead s.dmem (readAddr d s) := rfl

@[simp] theorem nextState_imem : (nextState d v s).imem = s.imem := rfl

@[simp] theorem nextState_dmem :
    (nextState d v s).dmem = if doStore d s then memWrite s.dmem (effAddr d s) (storeData d s) else s.dmem :=
  settled_writeIf_edge_read _ _ _

@[simp] theorem nextState_stop : (nextState d v s).stop = if haltsNow d s then true else s.stop :=
  settled_writeIf_edge_read _ _ _

@[simp] theorem nextState_clock : (nextState d v s).clock = s.clock + 1 := rfl

end nextState

/-! ### Each field of a state with a placed instruction -/

section placeInstr
variable (s : State) (w : InstrWord)

@[simp] theorem placeInstr_params : (placeInstr s w).params = s.params := rfl
@[simp] theorem placeInstr_pc : (placeInstr s w).pc = s.pc := rfl
@[simp] theorem placeInstr_redirect : (placeInstr s w).redirect = s.redirect := rfl
@[simp] theorem placeInstr_stage : (placeInstr s w).stage = .fetch := rfl
@[simp] theorem placeInstr_x : (placeInstr s w).x = s.x := rfl
@[simp] theorem placeInstr_aluOut : (placeInstr s w).aluOut = s.aluOut := rfl
@[simp] theorem placeInstr_memRdata : (placeInstr s w).memRdata = s.memRdata := rfl
@[simp] theorem placeInstr_imem : (placeInstr s w).imem = placeWord s.imem (efa s) w := rfl
@[simp] theorem placeInstr_dmem : (placeInstr s w).dmem = s.dmem := rfl
@[simp] theorem placeInstr_stop : (placeInstr s w).stop = false := rfl
@[simp] theorem placeInstr_clock : (placeInstr s w).clock = s.clock := rfl
@[simp] theorem placeInstr_efa : efa (placeInstr s w) = efa s := rfl

end placeInstr

/-! ### Each field after the host's stop -/

section hostStop
variable (s : State)

@[simp] theorem hostStop_params : (hostStop s).params = s.params := rfl
@[simp] theorem hostStop_pc : (hostStop s).pc = s.pc := rfl
@[simp] theorem hostStop_redirect : (hostStop s).redirect = s.redirect := rfl
@[simp] theorem hostStop_stage : (hostStop s).stage = s.stage := rfl
@[simp] theorem hostStop_x : (hostStop s).x = s.x := rfl
@[simp] theorem hostStop_aluOut : (hostStop s).aluOut = s.aluOut := rfl
@[simp] theorem hostStop_memRdata : (hostStop s).memRdata = s.memRdata := rfl
@[simp] theorem hostStop_imem : (hostStop s).imem = s.imem := rfl
@[simp] theorem hostStop_dmem : (hostStop s).dmem = s.dmem := rfl
@[simp] theorem hostStop_stop : (hostStop s).stop = true := rfl
@[simp] theorem hostStop_clock : (hostStop s).clock = s.clock := rfl

end hostStop

/-! ### Each field at reset -/

section reset
variable (p : Params)

@[simp] theorem resetWith_params : (State.resetWith p).params = p := rfl
@[simp] theorem resetWith_pc : (State.resetWith p).pc = 0 := rfl
@[simp] theorem resetWith_redirect : (State.resetWith p).redirect = none := rfl
@[simp] theorem resetWith_stage : (State.resetWith p).stage = .fetch := rfl
@[simp] theorem resetWith_x : (State.resetWith p).x = resetRegs p := rfl
@[simp] theorem resetWith_aluOut : (State.resetWith p).aluOut = 0 := rfl
@[simp] theorem resetWith_memRdata : (State.resetWith p).memRdata = 0 := rfl
@[simp] theorem resetWith_imem : (State.resetWith p).imem = [] := rfl
@[simp] theorem resetWith_dmem : (State.resetWith p).dmem = [] := rfl
@[simp] theorem resetWith_stop : (State.resetWith p).stop = false := rfl
@[simp] theorem resetWith_clock : (State.resetWith p).clock = 0 := rfl

end reset

/-! ### The stage enables -/

@[simp] theorem enabled_eq (st : Stage) (s : State) : enabled st s = (s.stage == st) := rfl

@[simp] theorem efa_none (s : State) (h : s.redirect = none) : efa s = s.pc := by simp [efa, h]

@[simp] theorem efa_some (s : State) (a : Word) (h : s.redirect = some a) : efa s = a := by simp [efa, h]

@[simp] theorem nextStage_ne_self (st : Stage) : nextStage st ≠ st := by cases st <;> decide

@[simp] theorem ticksDone_add_ticksLeft (st : Stage) : ticksLeft st ≤ 5 ∧ 0 < ticksLeft st := by cases st <;> decide

/-! ### Each field of the fatal state (60_exceptions.md R301) -/

section fatalState
variable (r : Fault)

@[simp] theorem fatalState_code : (fatalState r).code = faultCode r := rfl
@[simp] theorem fatalState_device : (fatalState r).device = raisedDevice r := rfl
@[simp] theorem fatalState_tableDevice : (fatalState r).tableDevice = faultDevice r := rfl
@[simp] theorem fatalState_info : (fatalState r).info = faultInfo r := rfl
@[simp] theorem fatalState_recorded : (fatalState r).recorded = faultState r := rfl

end fatalState

end Sys2Proof.Machine
end

