-- ==== Sys2Proof/Laws/Operands.lean ====
section
/-! SUPPORT. The laws of the operands: the register read and write ports, the register mapping, and the ALU and memory
operations by their selector. -/

namespace Sys2Proof.Machine

/-! ### The register file -/

/-- The value of an entry after a register write. -/
theorem writeReg_get (x : Vector Word numRegs) (i j : Fin numRegs) (v : Word) :
    (writeReg x i v)[j] = if j = i then v else x[j] := by
  simp only [writeReg, Fin.getElem_fin, Vector.getElem_set, Fin.ext_iff, eq_comm]

theorem writeReg_same (x : Vector Word numRegs) (i : Fin numRegs) (v : Word) : (writeReg x i v)[i] = v := by
  rw [writeReg_get, if_pos rfl]

theorem writeReg_other (x : Vector Word numRegs) {i j : Fin numRegs} (v : Word) (h : j ≠ i) :
    (writeReg x i v)[j] = x[j] := by
  rw [writeReg_get, if_neg h]

@[simp] theorem applyRegWrite_none (x : Vector Word numRegs) : applyRegWrite x none = x := rfl

@[simp] theorem applyRegWrite_some (x : Vector Word numRegs) (i : Fin numRegs) (v : Word) :
    applyRegWrite x (some (i, v)) = writeReg x i v := rfl

/-- A general register's index is not the guard's (10_state.md R21). -/
theorem regIndex_ne_guard (r : RegNo) : regIndex r ≠ guardIndex := by
  intro h
  have h1 : r.toNat = 32 := congrArg Fin.val h
  have h2 := r.isLt
  omega

theorem regIndex_injective {a b : RegNo} (h : regIndex a = regIndex b) : a = b :=
  BitVec.eq_of_toNat_eq (Fin.mk.inj_iff.mp h)

/-! ### The register mapping (R91) -/

@[simp] theorem mapIndex_pass (p : Params) (f : RegNo) : mapIndex p .pass f = regIndex f := rfl
@[simp] theorem mapIndex_link (p : Params) (f : RegNo) : mapIndex p .link f = regIndex p.linkIndex := rfl
@[simp] theorem mapIndex_off (p : Params) (f : RegNo) : mapIndex p .off f = guardIndex := rfl

/-- A slot reaches the guard exactly when its mapping is off (R91). -/
theorem mapIndex_eq_guard {p : Params} {m : RegMap} {f : RegNo} : mapIndex p m f = guardIndex ↔ m = .off := by
  cases m with
  | pass => simp [regIndex_ne_guard]
  | link => simp [regIndex_ne_guard]
  | off => simp

/-! ### The entries of an instruction -/

@[simp] theorem lookup_opc (p : Params) (k : Opcode) (f : Fields) : (lookup p k f).opc = k := rfl
@[simp] theorem lookup_entry (p : Params) (k : Opcode) (f : Fields) : (lookup p k f).entry = entryOf p k := rfl
@[simp] theorem lookup_fields (p : Params) (k : Opcode) (f : Fields) : (lookup p k f).fields = f := rfl

/-! ### The ALU by operation (44_alu.md R183 to R200) -/

section alu
variable (p : Params) (a b : Word)

@[simp] theorem alu_none : alu p .none a b = .ok p.aluSentinel := rfl
@[simp] theorem alu_add : alu p .add a b = .ok (a + b) := rfl
@[simp] theorem alu_sub : alu p .sub a b = .ok (a - b) := rfl
@[simp] theorem alu_mul : alu p .mul a b = .ok (BitVec.ofInt 64 (a.toInt * b.toInt)) := rfl
@[simp] theorem alu_div : alu p .div a b = aluDiv a b := rfl
@[simp] theorem alu_fadd : alu p .fadd a b = .ok (fpOp .fadd a b) := rfl
@[simp] theorem alu_fsub : alu p .fsub a b = .ok (fpOp .fsub a b) := rfl
@[simp] theorem alu_fmul : alu p .fmul a b = .ok (fpOp .fmul a b) := rfl
@[simp] theorem alu_fdiv : alu p .fdiv a b = .ok (fpOp .fdiv a b) := rfl
@[simp] theorem alu_and : alu p .and a b = .ok (a &&& b) := rfl
@[simp] theorem alu_or : alu p .or a b = .ok (a ||| b) := rfl
@[simp] theorem alu_xor : alu p .xor a b = .ok (a ^^^ b) := rfl
@[simp] theorem alu_not : alu p .not a b = .ok (~~~a) := rfl
@[simp] theorem alu_shl : alu p .shl a b = .ok (aluShift .shl a b) := rfl
@[simp] theorem alu_shr : alu p .shr a b = .ok (aluShift .shr a b) := rfl
@[simp] theorem alu_ne : alu p .ne a b = .ok (compareResult (a != b)) := rfl
@[simp] theorem alu_gt : alu p .gt a b = .ok (compareResult (decide (b.toInt < a.toInt))) := rfl
@[simp] theorem alu_sethi : alu p .sethi a b = .ok (aluSetHi a b) := rfl

/-- Only `DIV` faults (44_alu.md R182). -/
theorem alu_error_isDiv {op : AluOp} {r : AluFault} (h : alu p op a b = .error r) : op = .div := by
  cases op <;> first | rfl | cases h

/-- The two operand pairs of `DIV` that fault, and the quotient of every other (R186). -/
theorem aluDiv_cases :
    (b = 0 ∧ aluDiv a b = .error .divZero) ∨
    (b ≠ 0 ∧ a = intMin ∧ b = BitVec.allOnes 64 ∧ aluDiv a b = .error .divOverflow) ∨
    (b ≠ 0 ∧ ¬(a = intMin ∧ b = BitVec.allOnes 64) ∧ aluDiv a b = .ok (BitVec.ofInt 64 (Int.tdiv a.toInt b.toInt))) := by
  unfold aluDiv
  by_cases h0 : b = 0
  · exact .inl ⟨h0, if_pos h0⟩
  · by_cases h1 : a = intMin ∧ b = BitVec.allOnes 64
    · exact .inr (.inl ⟨h0, h1.1, h1.2, by rw [if_neg h0, if_pos h1]⟩)
    · exact .inr (.inr ⟨h0, h1, by rw [if_neg h0, if_neg h1]⟩)

end alu

@[simp] theorem compareResult_true : compareResult true = 1 := rfl
@[simp] theorem compareResult_false : compareResult false = 0 := rfl

@[simp] theorem nonzero_compareResult (c : Bool) : nonzero (compareResult c) = c := by cases c <;> decide

end Sys2Proof.Machine
end

