-- ==== Sys2Proof/Laws/Tick.lean ====
section
/-! SUPPORT. What one tick can do, said once (`tickOf_next`, `tickOf_fault`), and what it does in each stage
(70_reset_and_hazards.md R341). -/

namespace Sys2Proof.Machine

/-- A tick that answers a next state did not run (stopped), or passed every check of R118 and committed the edge. -/
theorem tickOf_next {d : Decoded} {s t : State} (h : tickOf d s = .next t) :
    (s.stop = true ∧ t = s) ∨
    (s.stop = false ∧ imemOut s.params (efa s) = false ∧ guardHit d s = false ∧
      (doStore d s = true → dmemOut s.params (effAddr d s) = false) ∧
      dmemOut s.params (readAddr d s) = false ∧
      ∃ v, aluNext d s = .ok v ∧ t = nextState d v s) := by
  unfold tickOf at h
  split at h
  · next hs =>
    injection h with h
    exact .inl ⟨hs, h.symm⟩
  · next hs =>
    split at h
    · cases h
    · next hi =>
      split at h
      · cases h
      · next v hv =>
        split at h
        · cases h
        · next hr =>
          split at h
          · cases h
          · next hst =>
            split at h
            · cases h
            · next hg =>
              injection h with h
              refine .inr ⟨by simpa using hs, by simpa using hi, by simpa using hg, fun hd => ?_, by simpa using hr, v, hv,
                h.symm⟩
              cases hx : dmemOut s.params (effAddr d s) with
              | false => rfl
              | true => exact absurd (by simp [hd, hx]) hst

/-- A tick that answers a fault: which check of R118 failed, and the recorded state is the state before the tick. -/
theorem tickOf_fault {d : Decoded} {s : State} {r : Fault} (h : tickOf d s = .fault r) :
    s.stop = false ∧
    ((imemOut s.params (efa s) = true ∧ r = .imemRange (efa s) s) ∨
     (∃ e, aluNext d s = .error e ∧ r = aluFatal d e s) ∨
     (dmemOut s.params (readAddr d s) = true ∧ r = .dmemRange (readAddr d s) s) ∨
     (doStore d s = true ∧ dmemOut s.params (effAddr d s) = true ∧ r = .dmemRange (effAddr d s) s) ∨
     (guardHit d s = true ∧ r = .guardWrite d.opc s)) := by
  unfold tickOf at h
  split at h
  · cases h
  · next hs =>
    refine ⟨by simpa using hs, ?_⟩
    split at h
    · next hi =>
      injection h with h
      exact .inl ⟨hi, h.symm⟩
    · split at h
      · next e he =>
        injection h with h
        exact .inr (.inl ⟨e, he, h.symm⟩)
      · split at h
        · next hr =>
          injection h with h
          exact .inr (.inr (.inl ⟨hr, h.symm⟩))
        · split at h
          · next hst =>
            injection h with h
            simp only [Bool.and_eq_true] at hst
            exact .inr (.inr (.inr (.inl ⟨hst.1, hst.2, h.symm⟩)))
          · split at h
            · next hg =>
              injection h with h
              exact .inr (.inr (.inr (.inr ⟨hg, h.symm⟩)))
            · cases h

/-- A tick is never refused. -/
theorem tickOf_not_refused {d : Decoded} {s : State} {r : Refusal} : tickOf d s ≠ .refused r := by
  unfold tickOf
  intro h
  repeat' split at h
  all_goals cases h

/-! ### The wires outside the stages that use them -/

theorem aluNext_hold {d : Decoded} {s : State} (h : s.stage ≠ .execute) : aluNext d s = .ok s.aluOut := by
  simp [aluNext, h]

theorem readAddr_neutral {d : Decoded} {s : State} (h : s.stage ≠ .memory) : readAddr d s = Config.neutralAddr := by
  simp [readAddr, h]

theorem doStore_false {d : Decoded} {s : State} (h : s.stage ≠ .memory) : doStore d s = false := by
  simp [doStore, h]

theorem regWrite_none {d : Decoded} {s : State} (h : s.stage ≠ .writeback) : regWrite d s = none := by
  simp [regWrite, h]

theorem guardHit_false {d : Decoded} {s : State} (h : s.stage ≠ .writeback) : guardHit d s = false := by
  simp [guardHit, regWrite_none h]

theorem pcWrite_none {d : Decoded} {s : State} (h : s.stage ≠ .writeback) : pcWrite d s = none := by
  simp [pcWrite, h]

theorem haltsNow_false {d : Decoded} {s : State} (h : s.stage ≠ .writeback) : haltsNow d s = false := by
  simp [haltsNow, h]

/-! ### The tick of each stage -/

section stages
variable {d : Decoded} {s : State} (hrun : s.stop = false) (hin : imemOut s.params (efa s) = false)
include hrun hin

/-- The Fetch tick: the PC takes the fetch address (R341, row 1). -/
theorem tickOf_fetch (hst : s.stage = .fetch) :
    tickOf d s = .next { s with pc := efa s, redirect := none, stage := .decode,
                                memRdata := memRead s.dmem Config.neutralAddr, clock := s.clock + 1 } := by
  have h1 : aluNext d s = .ok s.aluOut := aluNext_hold (by simp [hst])
  have h2 : readAddr d s = Config.neutralAddr := readAddr_neutral (by simp [hst])
  have h3 : doStore d s = false := doStore_false (by simp [hst])
  have h4 : guardHit d s = false := guardHit_false (by simp [hst])
  have h5 : nextState d s.aluOut s = { s with pc := efa s, redirect := none, stage := .decode, memRdata := memRead s.dmem Config.neutralAddr, clock := s.clock + 1 } := by
    simp [State.ext_iff, hst, h2, h3, nextStage, pcWrite, regWrite, haltsNow]
  simp [tickOf, hrun, hin, h1, h2, h3, h4, h5]

/-- The Decode tick changes nothing but the stage, the clock and the neutral read (R341, row 2). -/
theorem tickOf_decode (hst : s.stage = .decode) :
    tickOf d s = .next { s with redirect := none, stage := .execute,
                                memRdata := memRead s.dmem Config.neutralAddr, clock := s.clock + 1 } := by
  have h1 : aluNext d s = .ok s.aluOut := aluNext_hold (by simp [hst])
  have h2 : readAddr d s = Config.neutralAddr := readAddr_neutral (by simp [hst])
  have h3 : doStore d s = false := doStore_false (by simp [hst])
  have h4 : guardHit d s = false := guardHit_false (by simp [hst])
  have h5 : nextState d s.aluOut s = { s with redirect := none, stage := .execute, memRdata := memRead s.dmem Config.neutralAddr, clock := s.clock + 1 } := by
    simp [State.ext_iff, hst, h2, h3, nextStage, pcWrite, regWrite, haltsNow]
  simp [tickOf, hrun, hin, h1, h2, h3, h4, h5]

/-- The Execute tick: the ALU's register takes the result, or `DIV` is fatal (R341, row 3). -/
theorem tickOf_execute (hst : s.stage = .execute) :
    tickOf d s =
      match alu s.params d.entry.alu.op (aluOperand d d.entry.alu.src0 s) (aluOperand d d.entry.alu.src1 s) with
      | .error r => .fault (aluFatal d r s)
      | .ok v => .next { s with redirect := none, stage := .memory, aluOut := v,
                                memRdata := memRead s.dmem Config.neutralAddr, clock := s.clock + 1 } := by
  have h1 : aluNext d s = alu s.params d.entry.alu.op (aluOperand d d.entry.alu.src0 s) (aluOperand d d.entry.alu.src1 s) := by
    simp [aluNext, hst]
  have h2 : readAddr d s = Config.neutralAddr := readAddr_neutral (by simp [hst])
  have h3 : doStore d s = false := doStore_false (by simp [hst])
  have h4 : guardHit d s = false := guardHit_false (by simp [hst])
  have h5 : ∀ v, nextState d v s = { s with redirect := none, stage := .memory, aluOut := v, memRdata := memRead s.dmem Config.neutralAddr, clock := s.clock + 1 } := by
    intro v
    simp [State.ext_iff, hst, h2, h3, nextStage, pcWrite, regWrite, haltsNow]
  unfold tickOf
  rw [h1]
  cases alu s.params d.entry.alu.op (aluOperand d d.entry.alu.src0 s) (aluOperand d d.entry.alu.src1 s) <;>
    simp [hrun, hin, h2, h3, h4, h5]

/-- The Memory tick: the read output takes the cell, the store commits, or an address out of range is fatal (R341, row 4). -/
theorem tickOf_memory (hst : s.stage = .memory) :
    tickOf d s =
      if d.entry.mem.op ≠ .none ∧ dmemOut s.params (effAddr d s) then .fault (.dmemRange (effAddr d s) s)
      else .next { s with redirect := none, stage := .writeback,
                          memRdata := memRead s.dmem
                            (if d.entry.mem.op = .load then effAddr d s else Config.neutralAddr),
                          dmem := if d.entry.mem.op = .store then memWrite s.dmem (effAddr d s) (storeData d s)
                                  else s.dmem,
                          clock := s.clock + 1 } := by
  have h1 : aluNext d s = .ok s.aluOut := aluNext_hold (by simp [hst])
  have h4 : guardHit d s = false := guardHit_false (by simp [hst])
  have h5 : nextState d s.aluOut s = { s with redirect := none, stage := .writeback, memRdata := memRead s.dmem (if d.entry.mem.op = .load then effAddr d s else Config.neutralAddr), dmem := if d.entry.mem.op = .store then memWrite s.dmem (effAddr d s) (storeData d s) else s.dmem, clock := s.clock + 1 } := by
    simp [State.ext_iff, hst, nextStage, pcWrite, regWrite, haltsNow, readAddr, doStore]
  unfold tickOf
  rw [h1]
  cases hm : d.entry.mem.op <;> simp [hrun, hin, h4, h5, hst, hm, readAddr, doStore]

/-- The Writeback tick: the register write, the PC write and the halt, or a guard write is fatal (R341, row 5). -/
theorem tickOf_writeback (hst : s.stage = .writeback) :
    tickOf d s =
      if d.entry.wb.dest = .reg ∧ rdIndex s.params d = guardIndex then .fault (.guardWrite d.opc s)
      else .next { s with redirect := some (nextPc d s), stage := .fetch,
                          x := if d.entry.wb.dest = .reg then writeReg s.x (rdIndex s.params d) (result d s) else s.x,
                          memRdata := memRead s.dmem Config.neutralAddr,
                          stop := decide (d.opc = s.params.opc .halt),
                          clock := s.clock + 1 } := by
  have h1 : aluNext d s = .ok s.aluOut := aluNext_hold (by simp [hst])
  have h2 : readAddr d s = Config.neutralAddr := readAddr_neutral (by simp [hst])
  have h3 : doStore d s = false := doStore_false (by simp [hst])
  unfold tickOf
  rw [h1]
  by_cases hd : d.entry.wb.dest = .reg
  · by_cases hg : rdIndex s.params d = guardIndex
    · simp [hrun, hin, h2, h3, hst, hd, hg, guardHit, regWrite]
    · simp [hrun, hin, h2, h3, hst, hd, hg, guardHit, regWrite, State.ext_iff, nextStage, pcWrite, haltsNow]
  · simp [hrun, hin, h2, h3, hst, hd, guardHit, regWrite, State.ext_iff, nextStage, pcWrite, haltsNow]

end stages

/-! ### Runs of ticks -/

@[simp] theorem runTicks_zero (d : Decoded) (s : State) : runTicks d 0 s = .next s := rfl

theorem runTicks_succ_next {d : Decoded} {n : Nat} {s t : State} (h : tickOf d s = .next t) :
    runTicks d (n + 1) s = runTicks d n t := by
  simp [runTicks, h]

theorem runTicks_succ_fault {d : Decoded} {n : Nat} {s : State} {r : Fault} (h : tickOf d s = .fault r) :
    runTicks d (n + 1) s = .fault r := by
  simp [runTicks, h]

/-- A run of ticks that answers a next state is a chain of ticks that do. -/
theorem runTicks_next {d : Decoded} {n : Nat} {s t : State} (h : runTicks d (n + 1) s = .next t) :
    ∃ u, tickOf d s = .next u ∧ runTicks d n u = .next t := by
  unfold runTicks at h
  split at h
  · next u hu => exact ⟨u, hu, h⟩
  · cases h
  · cases h

/-- What every tick keeps, a run of ticks keeps: the one induction over ticks. -/
theorem runTicks_induct {P : State → Prop} {d : Decoded} (hP : ∀ s t, P s → tickOf d s = .next t → P t) :
    ∀ {n : Nat} {s t : State}, P s → runTicks d n s = .next t → P t := by
  intro n
  induction n with
  | zero =>
    intro s t hs h
    injection h with h
    exact h ▸ hs
  | succ n ih =>
    intro s t hs h
    obtain ⟨u, hu, h⟩ := runTicks_next h
    exact ih (hP s u hs hu) h

/-- An instruction cycle is never refused. -/
theorem runTicks_not_refused {d : Decoded} {n : Nat} {s : State} {r : Refusal} : runTicks d n s ≠ .refused r := by
  induction n generalizing s with
  | zero => intro h; cases h
  | succ n ih =>
    intro h
    unfold runTicks at h
    split at h
    · exact ih h
    · cases h
    · next hr => exact tickOf_not_refused hr

end Sys2Proof.Machine
end

