-- ==== Sys2Proof/Laws/Dispatch.lean ====
section
/-! SUPPORT. What `exec` is for each row: an instruction cycle with the row's decoded control record, and what a step
does. -/

namespace Sys2Proof.Machine

/-- The control record of a row: `CTL` at its opcode number, `E0` for an undefined opcode. -/
def rowDecoded (p : Params) (r : Row) (f : Fields) : Decoded :=
  match r with
  | .numbered k => lookup p k f
  | .named m => lookup p (p.opc m) f
  | .undefined k => Decoded.mk k disabledEntry f

/-- The meaning of every instruction is the instruction cycle with its row's control record (47_instructions.md R249,
R251). -/
theorem exec_eq_runCycle (i : Instr) (s : State) : exec i s = runCycle (rowDecoded s.params i.row i.fields) s := by
  cases i <;> rfl

theorem exec_numbered (k : Opcode) (f : Fields) (s : State) :
    exec (.numbered k f) s = runCycle (lookup s.params k f) s := by
  simp [exec_eq_runCycle, rowDecoded]

theorem exec_named (m : Mnemonic) (f : Fields) (s : State) :
    exec (.named m f) s = runCycle (lookup s.params (s.params.opc m) f) s := by
  simp [exec_eq_runCycle, rowDecoded]

theorem exec_undefined (k : Opcode) (f : Fields) (s : State) :
    exec (.undefined k f) s = runCycle (Decoded.mk k disabledEntry f) s := rfl

/-- What every tick keeps, whatever the instruction, every instruction keeps. -/
theorem exec_induct {P : State → Prop} (hP : ∀ d s t, P s → tickOf d s = .next t → P t) {i : Instr} {s t : State}
    (hs : P s) (h : exec i s = .next t) : P t := by
  rw [exec_eq_runCycle] at h
  exact runTicks_induct (hP _) hs h

/-- A step that answers a next state: nothing happened (stopped), or the fetched word's instruction did. -/
theorem step_next {s t : State} (h : step s = .next t) :
    (s.stop = true ∧ t = s) ∨
    (s.stop = false ∧ ∃ w, fetchWord s = .ok w ∧ exec (decode w) s = .next t) := by
  unfold step at h
  split at h
  · next hs =>
    injection h with h
    exact .inl ⟨hs, h.symm⟩
  · next hs =>
    split at h
    · cases h
    · next w hw => exact .inr ⟨by simpa using hs, w, hw, h⟩

/-- What every tick keeps, every step keeps. -/
theorem step_induct {P : State → Prop} (hP : ∀ d s t, P s → tickOf d s = .next t → P t) {s t : State} (hs : P s)
    (h : step s = .next t) : P t := by
  rcases step_next h with ⟨_, rfl⟩ | ⟨_, w, _, h⟩
  · exact hs
  · exact exec_induct hP hs h

/-- A tick that answers a next state: nothing happened (stopped), or a tick with the fetched word's control record. -/
theorem tick_next {s t : State} (h : tick s = .next t) :
    (s.stop = true ∧ t = s) ∨
    (s.stop = false ∧ ∃ w, fetchWord s = .ok w ∧ tickOf (decodeWires s.params w) s = .next t) := by
  unfold tick at h
  split at h
  · next hs =>
    injection h with h
    exact .inl ⟨hs, h.symm⟩
  · next hs =>
    split at h
    · cases h
    · next w hw => exact .inr ⟨by simpa using hs, w, hw, h⟩

/-- The fetch: the word at the effective fetch address, or the fatal condition of an address out of range. -/
theorem fetchWord_ok {s : State} (h : imemOut s.params (efa s) = false) :
    fetchWord s = .ok (imemRead s.imem (efa s)) := by
  simp [fetchWord, h]

theorem fetchWord_error {s : State} (h : imemOut s.params (efa s) = true) :
    fetchWord s = .error (.imemRange (efa s) s) := by
  simp [fetchWord, h]

end Sys2Proof.Machine
end

