-- ==== Sys2Proof/Laws/Float64.lean ====
section
/-! SUPPORT. The signed infinities and zeros that the statements about binary64 values name, and what it takes to round a value
to a finite one or to an infinity. -/

namespace Sys2Proof.Machine

@[simp] theorem signedInf_true : signedInf true = 0xFFF0000000000000#64 := rfl
@[simp] theorem signedInf_false : signedInf false = 0x7FF0000000000000#64 := rfl
@[simp] theorem signedZero_true : signedZero true = 0x8000000000000000#64 := rfl
@[simp] theorem signedZero_false : signedZero false = 0x0#64 := rfl

/-- Below the overflow threshold a correctly rounded value is the nearest finite one. -/
theorem roundsTo_of_lt {n d : Int} {r : Word} (h : n.natAbs < overflowUnits * d.natAbs) :
    RoundsTo n d r ↔ NearestEven n d r :=
  ⟨fun e => e.1 h, fun e => ⟨fun _ => e, fun h' => absurd h (Nat.not_lt.mpr h')⟩⟩

/-- From the overflow threshold on it is the infinity of the exact value's sign. -/
theorem roundsTo_of_ge {n d : Int} {r : Word} (h : overflowUnits * d.natAbs ≤ n.natAbs) :
    RoundsTo n d r ↔ r = signedInf (decide (n < 0) ^^ decide (d < 0)) :=
  ⟨fun e => e.2 h, fun e => ⟨fun h' => absurd h' (Nat.not_lt.mpr h), fun _ => e⟩⟩

end Sys2Proof.Machine
end

