-- ==== Sys2Proof/Tests/Slice0.lean ====
section
/-! SUPPORT. The model's own tests: well-formedness, decoding, the spec's vectors (95_test_vectors.md), one step per
instruction, and for each statement with hypotheses a state and operands that meet them (`witness_…`). -/

namespace Sys2Proof.Tests
open Sys2Proof.Machine

/-! ### Helpers -/

/-- Parameters for the tests: classes numbered in R95's order with their REF entries, distinct guard and sentinel values,
two cells in each memory. -/
def params : Params :=
  { exampleParams with guardValue := 0x6A6A#64, aluSentinel := 0x5E5E#64, linkIndex := 1,
                       imemCellsPred := 1, dmemCellsPred := 1 }

/-- The parameters with every data address in range, for any `LINK_REL`. -/
def wideParams : Params := { params with dmemCellsPred := 2 ^ 61 - 1 }

/-- The parameters with the entry of opcode 0 replaced. -/
def withEntry0 (e : Entry) : Params := { params with ctl := params.ctl.set 0 e }

/-- Registers: `x1 = 7`, `x2 = -2`, `x3 = 3`, `x4 = 12`, `x5 = 1.5`, `x6 = 2.0`, `x7 = -2^63`, `x8 = -1`, `x9 = 64`. -/
def regs (p : Params) : Vector Word numRegs :=
  [(1, 7#64), (2, 0xFFFFFFFFFFFFFFFE#64), (3, 3#64), (4, 12#64), (5, 0x3FF8000000000000#64),
    (6, 0x4000000000000000#64), (7, 0x8000000000000000#64), (8, 0xFFFFFFFFFFFFFFFF#64), (9, 64#64)].foldl
      (fun x w => writeReg x w.1 w.2) (resetRegs p)

/-- Right after reset under given parameters, with those registers and the data cells 1 and 2. -/
def stateOf (p : Params) : State := { State.resetWith p with x := regs p, dmem := imageMemory [1, 2] }

/-- The state of most tests. -/
def s0 : State := stateOf params

/-- The next state of an outcome. -/
def after (o : Host.Outcome State Fault Refusal) : Option State :=
  match o with
  | .next t => some t
  | _ => none

/-- The fault of an outcome. -/
def faultOf (o : Host.Outcome State Fault Refusal) : Option Fault :=
  match o with
  | .fault r => some r
  | _ => none

/-- A register after an instruction, and the next instruction's address. -/
def regAfter (i : Instr) (s : State) (r : RegNo) : Option (Word × Word) :=
  (after (exec i s)).map fun t => (readGpr t r, efa t)

/-- A cell after an instruction, and the next instruction's address. -/
def cellAfter (i : Instr) (s : State) (j : Nat) : Option (Word × Word) :=
  (after (exec i s)).map fun t => (readCell t.dmem j, efa t)

/-- A result of the ALU under the test parameters. -/
def aluOk (op : AluOp) (a b : Word) : Option Word := (alu params op a b).toOption

/-! ### Well-formedness: a well-formed term, and an ill-formed one for the one check -/

theorem test_wf_named : Instr.wf params (.add ⟨1, 2, 3, 4⟩) = true := by decide
theorem test_wf_undefined : Instr.wf params (.undefined 31 ⟨1, 2, 3, 4⟩) = true := by decide
theorem test_wf_refuses_defined_opcode : Instr.wf params (.undefined 0 ⟨1, 2, 3, 4⟩) = false := by decide
theorem test_legal_params : legalParams params = true ∧ tableWellFormed params = true ∧ tableIsRef params = true := by decide
theorem test_legal_refuses_equal_opcodes :
    legalParams { params with opcodes := params.opcodes.set 1 0 } = false := by decide
theorem test_legal_refuses_enabled_undefined :
    legalParams { params with ctl := params.ctl.set 31 (refEntry .mov) } = false := by decide

/-! ### Decoding -/

/-- The words of R82, written `imm_rt_rs_rd_opc`. -/
theorem test_decode_opcodes_0_to_7 :
    decode 0b000000000101_00011_00010_00001_00000#32 = .opcode0 ⟨1, 2, 3, 5⟩ ∧
    decode 0b001001010110_10000_01101_01000_00001#32 = .opcode1 ⟨8, 13, 16, 598⟩ ∧
    decode 0b010010100111_11101_11000_01111_00010#32 = .opcode2 ⟨15, 24, 29, 1191⟩ ∧
    decode 0b011011111000_01010_00011_10110_00011#32 = .opcode3 ⟨22, 3, 10, 1784⟩ ∧
    decode 0b100101001001_10111_01110_11101_00100#32 = .opcode4 ⟨29, 14, 23, 2377⟩ ∧
    decode 0b101110011010_00100_11001_00100_00101#32 = .opcode5 ⟨4, 25, 4, 2970⟩ ∧
    decode 0b110111101011_10001_00100_01011_00110#32 = .opcode6 ⟨11, 4, 17, 3563⟩ ∧
    decode 0b000000111100_11110_01111_10010_00111#32 = .opcode7 ⟨18, 15, 30, 60⟩ := by decide

/-- The words of R82, written `imm_rt_rs_rd_opc`. -/
theorem test_decode_opcodes_8_to_15 :
    decode 0b001010001101_01011_11010_11001_01000#32 = .opcode8 ⟨25, 26, 11, 653⟩ ∧
    decode 0b010011011110_11000_00101_00000_01001#32 = .opcode9 ⟨0, 5, 24, 1246⟩ ∧
    decode 0b011100101111_00101_10000_00111_01010#32 = .opcode10 ⟨7, 16, 5, 1839⟩ ∧
    decode 0b100110000000_10010_11011_01110_01011#32 = .opcode11 ⟨14, 27, 18, 2432⟩ ∧
    decode 0b101111010001_11111_00110_10101_01100#32 = .opcode12 ⟨21, 6, 31, 3025⟩ ∧
    decode 0b111000100010_01100_10001_11100_01101#32 = .opcode13 ⟨28, 17, 12, 3618⟩ ∧
    decode 0b000001110011_11001_11100_00011_01110#32 = .opcode14 ⟨3, 28, 25, 115⟩ ∧
    decode 0b001011000100_00110_00111_01010_01111#32 = .opcode15 ⟨10, 7, 6, 708⟩ := by decide

/-- The words of R82, written `imm_rt_rs_rd_opc`. -/
theorem test_decode_opcodes_16_to_23 :
    decode 0b010100010101_10011_10010_10001_10000#32 = .opcode16 ⟨17, 18, 19, 1301⟩ ∧
    decode 0b011101100110_00000_11101_11000_10001#32 = .opcode17 ⟨24, 29, 0, 1894⟩ ∧
    decode 0b100110110111_01101_01000_11111_10010#32 = .opcode18 ⟨31, 8, 13, 2487⟩ ∧
    decode 0b110000001000_11010_10011_00110_10011#32 = .opcode19 ⟨6, 19, 26, 3080⟩ ∧
    decode 0b111001011001_00111_11110_01101_10100#32 = .opcode20 ⟨13, 30, 7, 3673⟩ ∧
    decode 0b000010101010_10100_01001_10100_10101#32 = .opcode21 ⟨20, 9, 20, 170⟩ ∧
    decode 0b001011111011_00001_10100_11011_10110#32 = .opcode22 ⟨27, 20, 1, 763⟩ ∧
    decode 0b010101001100_01110_11111_00010_10111#32 = .opcode23 ⟨2, 31, 14, 1356⟩ := by decide

/-- The words of R82, written `imm_rt_rs_rd_opc`. -/
theorem test_decode_opcodes_24_to_31 :
    decode 0b011110011101_11011_01010_01001_11000#32 = .opcode24 ⟨9, 10, 27, 1949⟩ ∧
    decode 0b100111101110_01000_10101_10000_11001#32 = .opcode25 ⟨16, 21, 8, 2542⟩ ∧
    decode 0b110000111111_10101_00000_10111_11010#32 = .opcode26 ⟨23, 0, 21, 3135⟩ ∧
    decode 0b111010010000_00010_01011_11110_11011#32 = .opcode27 ⟨30, 11, 2, 3728⟩ ∧
    decode 0b000011100001_01111_10110_00101_11100#32 = .opcode28 ⟨5, 22, 15, 225⟩ ∧
    decode 0b001100110010_11100_00001_01100_11101#32 = .opcode29 ⟨12, 1, 28, 818⟩ ∧
    decode 0b010110000011_01001_01100_10011_11110#32 = .opcode30 ⟨19, 12, 9, 1411⟩ ∧
    decode 0b011111010100_10110_10111_11010_11111#32 = .opcode31 ⟨26, 23, 22, 2004⟩ := by decide

/-- The words of the classes as `exampleParams` numbers them (R95's order). -/
theorem test_decode_named_integer :
    decodeNamed exampleParams 0b000000000101_00011_00010_00001_00000#32 = .add ⟨1, 2, 3, 5⟩ ∧
    decodeNamed exampleParams 0b001001010110_10000_01101_01000_00001#32 = .sub ⟨8, 13, 16, 598⟩ ∧
    decodeNamed exampleParams 0b010010100111_11101_11000_01111_00010#32 = .mul ⟨15, 24, 29, 1191⟩ ∧
    decodeNamed exampleParams 0b011011111000_01010_00011_10110_00011#32 = .div ⟨22, 3, 10, 1784⟩ ∧
    decodeNamed exampleParams 0b100101001001_10111_01110_11101_00100#32 = .addi ⟨29, 14, 23, 2377⟩ := by decide

/-- The words of the classes as `exampleParams` numbers them (R95's order). -/
theorem test_decode_named_float :
    decodeNamed exampleParams 0b101110011010_00100_11001_00100_00101#32 = .fadd ⟨4, 25, 4, 2970⟩ ∧
    decodeNamed exampleParams 0b110111101011_10001_00100_01011_00110#32 = .fsub ⟨11, 4, 17, 3563⟩ ∧
    decodeNamed exampleParams 0b000000111100_11110_01111_10010_00111#32 = .fmul ⟨18, 15, 30, 60⟩ ∧
    decodeNamed exampleParams 0b001010001101_01011_11010_11001_01000#32 = .fdiv ⟨25, 26, 11, 653⟩ := by decide

/-- The words of the classes as `exampleParams` numbers them (R95's order). -/
theorem test_decode_named_logic :
    decodeNamed exampleParams 0b010011011110_11000_00101_00000_01001#32 = .and ⟨0, 5, 24, 1246⟩ ∧
    decodeNamed exampleParams 0b011100101111_00101_10000_00111_01010#32 = .or ⟨7, 16, 5, 1839⟩ ∧
    decodeNamed exampleParams 0b100110000000_10010_11011_01110_01011#32 = .xor ⟨14, 27, 18, 2432⟩ ∧
    decodeNamed exampleParams 0b101111010001_11111_00110_10101_01100#32 = .not ⟨21, 6, 31, 3025⟩ := by decide

/-- The words of the classes as `exampleParams` numbers them (R95's order). -/
theorem test_decode_named_shift :
    decodeNamed exampleParams 0b111000100010_01100_10001_11100_01101#32 = .shl ⟨28, 17, 12, 3618⟩ ∧
    decodeNamed exampleParams 0b000001110011_11001_11100_00011_01110#32 = .shr ⟨3, 28, 25, 115⟩ ∧
    decodeNamed exampleParams 0b001011000100_00110_00111_01010_01111#32 = .shli ⟨10, 7, 6, 708⟩ ∧
    decodeNamed exampleParams 0b010100010101_10011_10010_10001_10000#32 = .shri ⟨17, 18, 19, 1301⟩ := by decide

/-- The words of the classes as `exampleParams` numbers them (R95's order). -/
theorem test_decode_named_transfer :
    decodeNamed exampleParams 0b011101100110_00000_11101_11000_10001#32 = .bne ⟨24, 29, 0, 1894⟩ ∧
    decodeNamed exampleParams 0b100110110111_01101_01000_11111_10010#32 = .bgt ⟨31, 8, 13, 2487⟩ ∧
    decodeNamed exampleParams 0b110000001000_11010_10011_00110_10011#32 = .call ⟨6, 19, 26, 3080⟩ ∧
    decodeNamed exampleParams 0b111001011001_00111_11110_01101_10100#32 = .ret ⟨13, 30, 7, 3673⟩ := by decide

/-- The words of the classes as `exampleParams` numbers them (R95's order). -/
theorem test_decode_named_load_store :
    decodeNamed exampleParams 0b000010101010_10100_01001_10100_10101#32 = .load ⟨20, 9, 20, 170⟩ ∧
    decodeNamed exampleParams 0b001011111011_00001_10100_11011_10110#32 = .store ⟨27, 20, 1, 763⟩ := by decide

/-- The words of the classes as `exampleParams` numbers them (R95's order). -/
theorem test_decode_named_move :
    decodeNamed exampleParams 0b010101001100_01110_11111_00010_10111#32 = .mov ⟨2, 31, 14, 1356⟩ ∧
    decodeNamed exampleParams 0b011110011101_11011_01010_01001_11000#32 = .movi ⟨9, 10, 27, 1949⟩ ∧
    decodeNamed exampleParams 0b100111101110_01000_10101_10000_11001#32 = .movhi ⟨16, 21, 8, 2542⟩ := by decide

/-- The words of the classes as `exampleParams` numbers them (R95's order). -/
theorem test_decode_named_io_halt :
    decodeNamed exampleParams 0b110000111111_10101_00000_10111_11010#32 = .inp ⟨23, 0, 21, 3135⟩ ∧
    decodeNamed exampleParams 0b111010010000_00010_01011_11110_11011#32 = .outp ⟨30, 11, 2, 3728⟩ ∧
    decodeNamed exampleParams 0b000011100001_01111_10110_00101_11100#32 = .halt ⟨5, 22, 15, 225⟩ := by decide

/-- The opcode values 29 to 31 are no class's number under `exampleParams` (R251). -/
theorem test_decode_undefined :
    decodeNamed exampleParams 0b001100110010_11100_00001_01100_11101#32 = .undefined 29 ⟨12, 1, 28, 818⟩ ∧
    decodeNamed exampleParams 0b010110000011_01001_01100_10011_11110#32 = .undefined 30 ⟨19, 12, 9, 1411⟩ ∧
    decodeNamed exampleParams 0b011111010100_10110_10111_11010_11111#32 = .undefined 31 ⟨26, 23, 22, 2004⟩ := by decide

theorem test_decode_bytes :
    decodeBytes [0x41, 0x0C, 0xB2, 0x5A, 0xFF] = .ok (.opcode1 ⟨2, 3, 4, 0x5AB⟩, [0xFF]) := by decide
theorem test_decode_truncated : decodeBytes [0x41, 0x0C, 0xB2] = .error (.truncated 3) := by decide
theorem test_decode_table_word : decodeTableWord 32 0x5AB20C41 = some (.opcode1 ⟨2, 3, 4, 0x5AB⟩) := by decide

/-- 95_test_vectors.md S2. -/
theorem test_image_packing :
    pairCells [0x11111111#32, 0x22222222#32, 0x33333333#32, 0x44444444#32] =
      some [0x2222222211111111#64, 0x4444444433333333#64] ∧
    pairCells [0x11111111#32, 0x22222222#32, 0x33333333#32] = none := by decide

/-- A table row's word is the first instruction that runs after reset, whatever the parameters are. -/
theorem test_first_instruction_after_reset :
    step (State.reset.withFetchWord 32 0x5AB20C41) =
      exec (.opcode1 ⟨2, 3, 4, 0x5AB⟩) (State.reset.withFetchWord 32 0x5AB20C41) := by rfl

/-- 93_implementation_defined.md I7: a capacity that is no positive multiple of 8 is refused. -/
theorem test_capacity :
    (cellsPredOf 8).toOption = some 0 ∧ (cellsPredOf 0).toOption = none ∧ (cellsPredOf 12).toOption = none := by decide

/-! ### The ALU's vectors (95_test_vectors.md V4, S11) -/

theorem test_alu_integer :
    aluOk .add 0xFFFFFFFFFFFFFFFF#64 1 = some 0 ∧
    aluOk .add 0x7FFFFFFFFFFFFFFF#64 1 = some 0x8000000000000000#64 ∧
    aluOk .sub 0 1 = some 0xFFFFFFFFFFFFFFFF#64 ∧
    aluOk .sub 0x8000000000000000#64 1 = some 0x7FFFFFFFFFFFFFFF#64 ∧
    aluOk .mul 0x100000000#64 0x100000000#64 = some 0 ∧
    aluOk .mul 0xFFFFFFFFFFFFFFFD#64 4 = some 0xFFFFFFFFFFFFFFF4#64 ∧
    aluOk .mul 0x7FFFFFFFFFFFFFFF#64 2 = some 0xFFFFFFFFFFFFFFFE#64 := by decide

theorem test_alu_division :
    aluOk .div 7 2 = some 3 ∧
    aluOk .div 0xFFFFFFFFFFFFFFF9#64 2 = some 0xFFFFFFFFFFFFFFFD#64 ∧
    aluOk .div 7 0xFFFFFFFFFFFFFFFE#64 = some 0xFFFFFFFFFFFFFFFD#64 ∧
    aluOk .div 0xFFFFFFFFFFFFFFF9#64 0xFFFFFFFFFFFFFFFE#64 = some 3 ∧
    aluOk .div 0x8000000000000000#64 1 = some 0x8000000000000000#64 ∧
    aluOk .div 7 0 = none ∧ aluOk .div 0x8000000000000000#64 0xFFFFFFFFFFFFFFFF#64 = none := by decide

theorem test_alu_float_sum :
    aluOk .fadd 0x3FF0000000000000#64 0x4000000000000000#64 = some 0x4008000000000000#64 ∧
    aluOk .fadd 0x3FB999999999999A#64 0x3FC999999999999A#64 = some 0x3FD3333333333334#64 ∧
    aluOk .fadd 0 0x8000000000000000#64 = some 0 ∧
    aluOk .fsub 0x3FF0000000000000#64 0x4000000000000000#64 = some 0xBFF0000000000000#64 := by decide +kernel

theorem test_alu_float_product :
    aluOk .fmul 0x4000000000000000#64 0x4008000000000000#64 = some 0x4018000000000000#64 ∧
    aluOk .fmul 1 0x3FF8000000000000#64 = some 2 ∧
    aluOk .fmul 1 0x3FE0000000000000#64 = some 0 ∧
    aluOk .fdiv 0x4018000000000000#64 0x4000000000000000#64 = some 0x4008000000000000#64 ∧
    aluOk .fdiv 0x3FF0000000000000#64 0 = some 0x7FF0000000000000#64 ∧
    aluOk .fdiv 0xBFF0000000000000#64 0 = some 0xFFF0000000000000#64 := by decide +kernel

theorem test_alu_logic :
    aluOk .and 0xF0F0 0xFF00 = some 0xF000 ∧ aluOk .or 0xF0F0 0x0F0F = some 0xFFFF ∧
    aluOk .xor 0xFF 0x0F = some 0xF0 ∧ aluOk .not 0 123 = some 0xFFFFFFFFFFFFFFFF#64 ∧
    aluOk .not 0xFF 0 = some 0xFFFFFFFFFFFFFF00#64 ∧ aluOk .none 4 5 = some 0x5E5E := by decide

theorem test_alu_shift :
    aluOk .shl 1 63 = some 0x8000000000000000#64 ∧
    aluOk .shl 0xFFFFFFFFFFFFFFFF#64 1 = some 0xFFFFFFFFFFFFFFFE#64 ∧ aluOk .shl 8 3 = some 64 ∧
    aluOk .shr 0x8000000000000000#64 63 = some 1 ∧
    aluOk .shr 0xFFFFFFFFFFFFFFFF#64 4 = some 0x0FFFFFFFFFFFFFFF#64 := by decide

theorem test_alu_shift_out_of_range : aluOk .shl 1 64 = some (Config.shiftOor .shl 1 64) := by rfl

theorem test_alu_compare :
    aluOk .ne 5 6 = some 1 ∧ aluOk .ne 5 5 = some 0 ∧ aluOk .ne 0 0x8000000000000000#64 = some 1 ∧
    aluOk .gt 3 2 = some 1 ∧ aluOk .gt 0 0xFFFFFFFFFFFFFFFF#64 = some 1 ∧
    aluOk .gt 0x8000000000000000#64 0 = some 0 ∧ aluOk .gt 4 4 = some 0 := by decide

theorem test_alu_set_high :
    aluOk .sethi 0x123456789ABCDEF0#64 0x3FF = some 0x3FF456789ABCDEF0#64 ∧
    aluOk .sethi 0 0x1FFF = some 0xFFF0000000000000#64 ∧
    aluOk .sethi 0xFFFFFFFFFFFFFFFF#64 0 = some 0x000FFFFFFFFFFFFF#64 := by decide

/-! ### One step per instruction -/

theorem test_add : regAfter (.add ⟨10, 1, 8, 9⟩) s0 10 = some (6, 4) := by decide
theorem test_sub : regAfter (.sub ⟨10, 3, 1, 9⟩) s0 10 = some (0xFFFFFFFFFFFFFFFC#64, 4) := by decide
theorem test_mul : regAfter (.mul ⟨2, 2, 3, 9⟩) s0 2 = some (0xFFFFFFFFFFFFFFFA#64, 4) := by decide
theorem test_div : regAfter (.div ⟨10, 1, 2, 9⟩) s0 10 = some (0xFFFFFFFFFFFFFFFD#64, 4) := by decide
/-- 60_exceptions.md R306, as in program P5: the recorded state is that before the Execute tick. -/
theorem test_div_by_zero :
    faultOf (exec (.div ⟨10, 1, 0, 9⟩) s0) =
      some (.divZero 7 0 { s0 with stage := .execute, memRdata := 1, clock := 2 }) := by decide
theorem test_addi : regAfter (.addi ⟨1, 1, 9, 4095⟩) s0 1 = some (4102, 4) := by decide
theorem test_fadd : regAfter (.fadd ⟨10, 5, 6, 0⟩) s0 10 = some (0x400C000000000000#64, 4) := by decide +kernel
theorem test_fsub : regAfter (.fsub ⟨10, 5, 6, 0⟩) s0 10 = some (0xBFE0000000000000#64, 4) := by decide +kernel
theorem test_fmul : regAfter (.fmul ⟨10, 5, 6, 0⟩) s0 10 = some (0x4008000000000000#64, 4) := by decide +kernel
theorem test_fdiv : regAfter (.fdiv ⟨10, 5, 6, 0⟩) s0 10 = some (0x3FE8000000000000#64, 4) := by decide +kernel
theorem test_and : regAfter (.and ⟨10, 1, 4, 0⟩) s0 10 = some (4, 4) := by decide
theorem test_or : regAfter (.or ⟨10, 1, 4, 0⟩) s0 10 = some (15, 4) := by decide
theorem test_xor : regAfter (.xor ⟨10, 1, 4, 0⟩) s0 10 = some (11, 4) := by decide
theorem test_not : regAfter (.not ⟨10, 1, 4, 0⟩) s0 10 = some (0xFFFFFFFFFFFFFFF8#64, 4) := by decide
theorem test_shl : regAfter (.shl ⟨10, 2, 3, 9⟩) s0 10 = some (0xFFFFFFFFFFFFFFF0#64, 4) := by decide
theorem test_shr : regAfter (.shr ⟨10, 8, 3, 9⟩) s0 10 = some (0x1FFFFFFFFFFFFFFF#64, 4) := by decide
theorem test_shli : regAfter (.shli ⟨10, 1, 3, 63⟩) s0 10 = some (0x8000000000000000#64, 4) := by decide
theorem test_shri : regAfter (.shri ⟨10, 7, 3, 63⟩) s0 10 = some (1, 4) := by decide
theorem test_bne_taken : regAfter (.bne ⟨1, 4, 3, 5⟩) s0 1 = some (7, 12) := by decide
theorem test_bne_not_taken : regAfter (.bne ⟨1, 4, 1, 5⟩) s0 1 = some (7, 4) := by decide
theorem test_bgt_taken : regAfter (.bgt ⟨3, 4, 2, 5⟩) s0 3 = some (3, 12) := by decide
theorem test_bgt_not_taken : regAfter (.bgt ⟨3, 4, 3, 5⟩) s0 3 = some (3, 4) := by decide
theorem test_load : regAfter (.load ⟨10, 1, 3, 8⟩) s0 10 = some (2, 4) := by decide
theorem test_load_out_of_range :
    faultOf (exec (.load ⟨10, 4, 3, 4⟩) s0) =
      some (.dmemRange 16 { s0 with stage := .memory, aluOut := 16, memRdata := 1, clock := 3 }) := by decide
theorem test_store : cellAfter (.store ⟨10, 1, 3, 8⟩) s0 1 = some (7, 4) := by decide
theorem test_store_own_cell_only : cellAfter (.store ⟨10, 1, 3, 8⟩) s0 0 = some (1, 4) := by decide
theorem test_mov : regAfter (.mov ⟨10, 7, 3, 8⟩) s0 10 = some (0x8000000000000000#64, 4) := by decide
theorem test_movi : regAfter (.movi ⟨1, 7, 3, 0xFFF⟩) s0 1 = some (0xFFF, 4) := by decide
theorem test_movhi : regAfter (.movhi ⟨1, 7, 3, 0x3FF⟩) s0 1 = some (0x3FF0000000000007#64, 4) := by decide
theorem test_in : (after (exec (.inp ⟨1, 2, 3, 4⟩) s0)).map (fun t => (t.x, t.aluOut)) = some (s0.x, 0x5E5E) := by decide
theorem test_out : (after (exec (.outp ⟨1, 2, 3, 4⟩) s0)).map (fun t => (t.x, t.dmem)) = some (s0.x, s0.dmem) := by decide
theorem test_halt :
    (after (exec (.halt ⟨1, 2, 3, 4⟩) s0)).map (fun t => (t.stop, t.pc, t.redirect)) = some (true, 0, some 4) := by decide
theorem test_undefined :
    (after (exec (.undefined 31 ⟨1, 2, 3, 4⟩) s0)).map (fun t => (t.x, t.aluOut, efa t)) = some (s0.x, 0x5E5E, 4) := by
  decide
/-- Numbered rows run their table's entries: 4 is ADDI, 0 is ADD, 30 is an undefined opcode in these parameters. -/
theorem test_numbered_rows :
    regAfter (.opcode4 ⟨1, 1, 9, 4095⟩) s0 1 = some (4102, 4) ∧ regAfter (.opcode0 ⟨10, 1, 8, 9⟩) s0 10 = some (6, 4) ∧
    regAfter (.opcode30 ⟨1, 1, 9, 4095⟩) s0 1 = some (7, 4) := by decide

/-! ### The vectors of the fetch, memory and writeback ticks (95_test_vectors.md V1, V5, V6) -/

/-- A state at a stage with an instruction word at its fetch address. -/
def atStage (st : Stage) (w : InstrWord) (s : State) : State := { placeInstr s w with stage := st }

theorem test_fetch_override_wins :
    (after (tick { s0 with redirect := some 8 })).map (fun t => (t.pc, t.redirect)) = some (8, none) := by decide
theorem test_fetch_misaligned :
    (fetchWord { s0 with redirect := some 6, imem := imageMemory [0x2222222211111111#64] }).toOption =
      some 0x22222222#32 := by decide
theorem test_memory_load :
    (after (tick { atStage .memory (pack 21 ⟨2, 0, 0, 0⟩) s0 with aluOut := 15 })).map (fun t => t.memRdata) =
      some 2 := by decide
theorem test_memory_store_reads_first :
    (after (tick { atStage .memory (pack 22 ⟨0, 1, 0, 0⟩) s0 with aluOut := 0 })).map
      (fun t => (t.memRdata, readCell t.dmem 0)) = some (1, 7) := by decide
theorem test_writeback_target_from_memory :
    (after (tick { atStage .writeback (pack 20 ⟨0, 0, 0, 0⟩) s0 with memRdata := 12 })).map
      (fun t => (t.redirect, t.x)) = some (some 12, s0.x) := by decide
theorem test_guard_write_is_fatal :
    (faultOf (exec (.opcode0 ⟨1, 2, 3, 4⟩)
      (stateOf (withEntry0 (mkEntry .add .rs .rt .none .alu .alu .alu .reg .off .pass .pass))))).map faultCode =
        some 5 := by decide
/-- The fatal state of program P5 has the raise's device, its table device, the operand pair and the state (R301, R302). -/
theorem test_fatal_state :
    (faultOf (exec (.div ⟨10, 1, 0, 9⟩) s0)).map (fun r => ((fatalState r).code, (fatalState r).device, (fatalState r).info)) =
      some (3, .alu, .operands 7 0) ∧
    (faultOf (tick { s0 with redirect := some 16 })).map (fun r => ((fatalState r).device, (fatalState r).tableDevice)) =
      some (.instructionMemory, .fetchUnit) := by decide
theorem test_link_slot :
    mapIndex params .link 7 = 1 ∧ mapIndex params .off 7 = 32 ∧ mapIndex params .pass 7 = 7 := by decide

/-! ### Witnesses: for each statement with hypotheses, what meets them, at a boundary where a range has one -/

theorem witness_round_trip :
    opcodesDistinct params = true ∧
    (Instr.opcode31 ⟨1, 2, 3, 4⟩).wf params = true ∧ (Instr.opcode31 ⟨1, 2, 3, 4⟩).row = .numbered 31 ∧
    (Instr.halt ⟨1, 2, 3, 4⟩).wf params = true ∧ (∀ k, (Instr.halt ⟨1, 2, 3, 4⟩).row ≠ .numbered k) ∧
    (Instr.undefined 29 ⟨1, 2, 3, 4⟩).wf params = true ∧ (∀ k, (Instr.undefined 29 ⟨1, 2, 3, 4⟩).row ≠ .numbered k) :=
  ⟨by decide, by decide, rfl, by decide, fun k => by simp [Instr.row], by decide, fun k => by simp [Instr.row]⟩

theorem witness_legal_params : legalParams s0.params = true := by decide

theorem witness_built_image :
    [(0#5, Fields.mk 1 2 3 4), (31#5, Fields.mk 4 3 2 1)].length % 2 = 0 ∧
    [(0#5, Fields.mk 1 2 3 4), (31#5, Fields.mk 4 3 2 1)][2 * 0 + 1]? = some (31#5, Fields.mk 4 3 2 1) ∧
    4 * 1 < 2 ^ 64 ∧ [(0#5, Fields.mk 1 2 3 4)].length % 2 = 1 := by decide

theorem witness_step_fetches :
    { s0 with redirect := some 15 }.stop = false ∧ fetchWord { s0 with redirect := some 15 } = .ok 0 := ⟨rfl, by rfl⟩

theorem witness_step_fetch_fatal :
    { s0 with redirect := some 16 }.stop = false ∧
    imemOut { s0 with redirect := some 16 }.params (efa { s0 with redirect := some 16 }) = true := by decide

theorem witness_cycle : s0.stop = false ∧ s0.stage = .fetch := by decide

theorem witness_mid_cycle : (atStage .memory 0 s0).stage ≠ .fetch → (atStage .memory 0 s0).redirect = none := fun _ => rfl

theorem ready_s0 : s0.Ready := ⟨by decide, by decide, by decide⟩

/-- LOAD at the last address in range. -/
theorem witness_numbered_load :
    s0.Ready ∧ cycleAlu (lookup s0.params 21 ⟨10, 4, 0, 3⟩) s0 = .ok 15 ∧
    dmemOut s0.params (cycleAddr (lookup s0.params 21 ⟨10, 4, 0, 3⟩) 15 s0) = false ∧
    ¬((entryOf s0.params 21).wb.dest = .reg ∧ (entryOf s0.params 21).map.rd = .off) :=
  ⟨ready_s0, by decide, by decide, by decide⟩

/-- STORE at the last address in range: `x[rt] + imm = 15`. -/
theorem witness_numbered_frame :
    s0.Ready ∧ s0.dmem.wf ∧ cycleAlu (lookup s0.params 22 ⟨10, 1, 4, 3⟩) s0 = .ok 15 ∧
    (∃ t, exec (.numbered 22 ⟨10, 1, 4, 3⟩) s0 = .next t) ∧ (entryOf s0.params 22).mem.op = .store ∧
    (entryOf s0.params 21).mem.op ≠ .store :=
  ⟨ready_s0, by decide, by decide, ⟨_, rfl⟩, by decide, by decide⟩

theorem witness_placed_word :
    { s0 with redirect := some 15 }.imem.wf ∧
    imemOut { s0 with redirect := some 15 }.params (efa { s0 with redirect := some 15 }) = false := by decide

/-- A taken branch, and an instruction that is none. -/
theorem witness_pc_advances :
    (placeInstr s0 (pack 17 ⟨1, 4, 3, 0⟩)).Ready ∧
    fetchWord (placeInstr s0 (pack 17 ⟨1, 4, 3, 0⟩)) = .ok (pack 17 ⟨1, 4, 3, 0⟩) ∧
    (∃ t, step (placeInstr s0 (pack 17 ⟨1, 4, 3, 0⟩)) = .next t) ∧
    (entryOf params (opcodeField (pack 17 ⟨1, 4, 3, 0⟩))).wb.dest = .pc ∧
    (entryOf params (opcodeField (pack 0 ⟨1, 4, 3, 0⟩))).wb.dest ≠ .pc :=
  ⟨⟨by decide, by decide, by decide⟩, by rfl, ⟨_, rfl⟩, by decide, by decide⟩

theorem witness_five_ticks : ∃ t, s0.stop = false ∧ s0.stage = .fetch ∧ step s0 = .next t := ⟨_, rfl, rfl, rfl⟩

/-- A tick of each stage completes: an ADD in four of them, a STORE and a LOAD in the Memory stage. -/
theorem witness_ticks :
    (∃ t, tick (atStage .fetch (pack 0 ⟨1, 2, 3, 0⟩) s0) = .next t) ∧
    (∃ t, tick (atStage .decode (pack 0 ⟨1, 2, 3, 0⟩) s0) = .next t) ∧
    (∃ t, tick (atStage .execute (pack 0 ⟨1, 2, 3, 0⟩) s0) = .next t) ∧
    (∃ t, tick (atStage .memory (pack 22 ⟨1, 2, 3, 0⟩) s0) = .next t) ∧
    (∃ t, tick (atStage .memory (pack 21 ⟨1, 2, 3, 0⟩) s0) = .next t) ∧
    (∃ t, tick (atStage .writeback (pack 0 ⟨1, 2, 3, 0⟩) s0) = .next t) :=
  ⟨⟨_, rfl⟩, ⟨_, rfl⟩, ⟨_, rfl⟩, ⟨_, rfl⟩, ⟨_, rfl⟩, ⟨_, rfl⟩⟩

theorem witness_ticks_fetch :
    ∀ st : Stage, (atStage st (pack 0 ⟨1, 2, 3, 0⟩) s0).stop = false ∧
      fetchWord (atStage st (pack 0 ⟨1, 2, 3, 0⟩) s0) = .ok (pack 0 ⟨1, 2, 3, 0⟩) := by
  intro st
  cases st <;> exact ⟨rfl, by rfl⟩

theorem witness_halt_tick :
    (atStage .writeback (pack 28 ⟨0, 0, 0, 0⟩) s0).stop = false ∧
    fetchWord (atStage .writeback (pack 28 ⟨0, 0, 0, 0⟩) s0) = .ok (pack 28 ⟨0, 0, 0, 0⟩) ∧
    opcodeField (pack 28 ⟨0, 0, 0, 0⟩) = params.opc .halt ∧
    (after (tick (atStage .writeback (pack 28 ⟨0, 0, 0, 0⟩) s0))).map (fun t => t.stop) = some true :=
  ⟨rfl, by rfl, by decide, by decide⟩

theorem witness_run_stops :
    { s0 with stop := true }.stop = true ∧
    (∃ t, run 5 (placeInstr s0 (pack 28 ⟨0, 0, 0, 0⟩)) = .next t ∧ t.stop = true) := ⟨rfl, ⟨_, rfl, rfl⟩⟩

theorem witness_image_load :
    s0.clock = 0 ∧ s0.params.imemCells < [1#64, 2, 3].length ∧ [1#64, 2].length ≤ s0.params.imemCells ∧
    s0.params.dmemCells < [1#64, 2, 3].length ∧ [1#64, 2].length ≤ s0.params.dmemCells := by decide

theorem witness_boot :
    legalParams params = true ∧ [1#64, 2].length ≤ params.imemCells ∧ [1#64, 2].length ≤ params.dmemCells := by decide

theorem inv_s0 : s0.Inv :=
  ⟨by decide, by decide, by decide, by decide, by decide, by decide, by decide, by decide, by decide⟩

/-- A state inside a cycle, at a stage after so many ticks. -/
def midState (st : Stage) (w : InstrWord) (p : Params) : State := { atStage st w (stateOf p) with clock := ticksDone st }

theorem inv_mid_writeback : (midState .writeback (pack 0 ⟨1, 2, 3, 0⟩) params).Inv :=
  ⟨by decide, by decide, by decide, by decide, by decide, by decide, by decide, by decide, by decide⟩

theorem witness_tick_invariant :
    (midState .writeback (pack 0 ⟨1, 2, 3, 0⟩) params).Inv ∧
    ∃ t, tick (midState .writeback (pack 0 ⟨1, 2, 3, 0⟩) params) = .next t := ⟨inv_mid_writeback, ⟨_, rfl⟩⟩

theorem witness_step_invariant :
    s0.Inv ∧ (∃ t, step s0 = .next t) ∧ (midState .writeback (pack 0 ⟨1, 2, 3, 0⟩) params).Inv ∧
    ∃ t, step (midState .writeback (pack 0 ⟨1, 2, 3, 0⟩) params) = .next t :=
  ⟨inv_s0, ⟨_, rfl⟩, inv_mid_writeback, ⟨_, rfl⟩⟩

theorem witness_program_unchanged : (∃ t, tick s0 = .next t) ∧ (∃ t, step s0 = .next t) := ⟨⟨_, rfl⟩, ⟨_, rfl⟩⟩

/-- Parameters whose opcode 0 writes a register through a slot that is off (30_encoding.md R94 not met). -/
def guardParams : Params := withEntry0 (mkEntry .add .rs .rt .none .alu .alu .alu .reg .off .pass .pass)

theorem witness_guard_write :
    (midState .writeback 0 guardParams).stop = false ∧ fetchWord (midState .writeback 0 guardParams) = .ok 0 ∧
    (midState .writeback 0 guardParams).stage = .writeback ∧
    (entryOf guardParams (opcodeField 0)).wb.dest = .reg ∧ (entryOf guardParams (opcodeField 0)).map.rd = .off :=
  ⟨rfl, by rfl, rfl, by decide, by decide⟩

theorem witness_fatal_tick : ∃ r, tick { s0 with redirect := some 16 } = .fault r := ⟨_, rfl⟩

/-- A fetch out of range, just after another instruction's end. -/
theorem witness_fatal_fetch :
    { s0 with redirect := some 16, clock := 5 }.Inv ∧
    (faultOf (tick { s0 with redirect := some 16, clock := 5 })).map faultCode = some 1 :=
  ⟨⟨by decide, by decide, by decide, by decide, by decide, by decide, by decide, by decide, by decide⟩, by decide⟩

theorem witness_fatal_memory :
    { midState .memory (pack 21 ⟨1, 2, 3, 0⟩) params with aluOut := 16 }.Inv ∧
    (faultOf (tick { midState .memory (pack 21 ⟨1, 2, 3, 0⟩) params with aluOut := 16 })).map faultCode = some 2 :=
  ⟨⟨by decide, by decide, by decide, by decide, by decide, by decide, by decide, by decide, by decide⟩, by decide⟩

theorem witness_fatal_divide_by_zero :
    (midState .execute (pack 3 ⟨1, 2, 0, 0⟩) params).Inv ∧
    (faultOf (tick (midState .execute (pack 3 ⟨1, 2, 0, 0⟩) params))).map faultCode = some 3 :=
  ⟨⟨by decide, by decide, by decide, by decide, by decide, by decide, by decide, by decide, by decide⟩, by decide⟩

theorem witness_fatal_divide_overflow :
    (midState .execute (pack 3 ⟨1, 7, 8, 0⟩) params).Inv ∧
    (faultOf (tick (midState .execute (pack 3 ⟨1, 7, 8, 0⟩) params))).map faultCode = some 4 :=
  ⟨⟨by decide, by decide, by decide, by decide, by decide, by decide, by decide, by decide, by decide⟩, by decide⟩

theorem witness_fatal_guard :
    (midState .writeback 0 guardParams).Inv ∧
    (faultOf (tick (midState .writeback 0 guardParams))).map faultCode = some 5 :=
  ⟨⟨by decide, by decide, by decide, by decide, by decide, by decide, by decide, by decide, by decide⟩, by decide⟩

/-- A fatal instruction in its Execute tick, and one in its Memory tick. -/
theorem witness_fatal_instruction :
    (placeInstr s0 (pack 3 ⟨1, 2, 0, 0⟩)).Ready ∧
    (faultOf (step (placeInstr s0 (pack 3 ⟨1, 2, 0, 0⟩)))).map faultCode = some 3 ∧
    (placeInstr s0 (pack 21 ⟨1, 4, 0, 4⟩)).Ready ∧
    (faultOf (step (placeInstr s0 (pack 21 ⟨1, 4, 0, 4⟩)))).map faultCode = some 2 :=
  ⟨⟨by decide, by decide, by decide⟩, by decide, ⟨by decide, by decide, by decide⟩, by decide⟩

/-- Parameters whose opcode 0 stores and then writes a register through a slot that is off. -/
def storeGuardParams : Params := withEntry0 (mkEntry .add .rs .rt .store .alu .rs .alu .reg .off .pass .pass)

/-- An instruction fatal in its Writeback tick, without a store and after one: then the cell is written. -/
theorem witness_fatal_instruction_guard :
    (placeInstr (stateOf guardParams) 0).Ready ∧
    (faultOf (step (placeInstr (stateOf guardParams) 0))).map faultCode = some 5 ∧
    (entryOf guardParams 0).mem.op ≠ .store ∧
    (placeInstr (stateOf storeGuardParams) (pack 0 ⟨0, 1, 0, 0⟩)).Ready ∧
    (faultOf (step (placeInstr (stateOf storeGuardParams) (pack 0 ⟨0, 1, 0, 0⟩)))).map
      (fun r => (faultCode r, readCell (faultState r).dmem 0)) = some (5, 7) ∧
    (entryOf storeGuardParams 0).mem.op = .store :=
  ⟨⟨by decide, by decide, by decide⟩, by decide, by decide, ⟨by decide, by decide, by decide⟩, by decide, by decide⟩

theorem witness_well_formed_table : tableWellFormed s0.params = true := by decide

theorem witness_division :
    (0 : Word) = 0 ∧ ((7 : Word) ≠ 0 ∧ ¬((7 : Word) = 0x8000000000000000#64 ∧ (7 : Word) = 0xFFFFFFFFFFFFFFFF#64)) ∧
    ((0xFFFFFFFFFFFFFFFF#64 : Word) ≠ 0 ∧
      ¬((0x8000000000000001#64 : Word) = 0x8000000000000000#64 ∧ (0xFFFFFFFFFFFFFFFF#64 : Word) = 0xFFFFFFFFFFFFFFFF#64)) := by
  decide

theorem witness_shift : (63 : Word).toNat < 64 ∧ 64 ≤ (64 : Word).toNat := by decide

theorem witness_compare :
    (5 : Word) ≠ 6 ∧ (0xFFFFFFFFFFFFFFFF#64 : Word).toInt < (0 : Word).toInt ∧
    (0x8000000000000000#64 : Word).toInt ≤ (0 : Word).toInt := by decide

/-- A NaN, the two infinities, the largest finite value, the two zeros, and operands whose sum or difference is 0. -/
theorem witness_float_special :
    f64IsNan 0x7FF0000000000001#64 = true ∧ f64IsInf 0x7FF0000000000000#64 = true ∧ f64IsInf 0xFFF0000000000000#64 = true ∧
    f64Exp 0x7FEFFFFFFFFFFFFF#64 ≠ 2047 ∧ f64Exp 0 ≠ 2047 ∧ f64Units 0 = 0 ∧ f64Units 0x8000000000000000#64 = 0 ∧
    f64Units 1 ≠ 0 ∧ f64Units 0x8000000000000000#64 + f64Units 0x8000000000000000#64 = 0 ∧
    f64Units 0x3FF0000000000000#64 + f64Units 0xBFF0000000000000#64 = 0 ∧
    f64Units 0x8000000000000000#64 - f64Units 0 = 0 := by decide +kernel

/-- Special values as IEEE-754 gives them: `-0 + -0`, `-0 - +0`, `-inf + 1`, `1 - +inf`, `-inf * 2`, `-2 / +0`, `-2 / +inf`, `-0 * 3`. -/
theorem test_float_special :
    fpOp .fadd 0x8000000000000000#64 0x8000000000000000#64 = 0x8000000000000000#64 ∧
    fpOp .fsub 0x8000000000000000#64 0 = 0x8000000000000000#64 ∧
    fpOp .fadd 0xFFF0000000000000#64 0x3FF0000000000000#64 = 0xFFF0000000000000#64 ∧
    fpOp .fsub 0x3FF0000000000000#64 0x7FF0000000000000#64 = 0xFFF0000000000000#64 ∧
    fpOp .fmul 0xFFF0000000000000#64 0x4000000000000000#64 = 0xFFF0000000000000#64 ∧
    fpOp .fdiv 0xC000000000000000#64 0 = 0xFFF0000000000000#64 ∧
    fpOp .fdiv 0xC000000000000000#64 0x7FF0000000000000#64 = 0x8000000000000000#64 ∧
    fpOp .fmul 0x8000000000000000#64 0x4008000000000000#64 = 0x8000000000000000#64 := by decide +kernel

/-- The overflow threshold of a sum: the largest finite value plus 2^970 reaches it exactly, plus the value below 2^970 does not. -/
theorem witness_float_sum_threshold :
    f64Exp 0x7FEFFFFFFFFFFFFF#64 ≠ 2047 ∧ f64Exp 0x7C90000000000000#64 ≠ 2047 ∧ f64Exp 0xFC90000000000000#64 ≠ 2047 ∧
    (f64Units 0x7FEFFFFFFFFFFFFF#64 + f64Units 0x7C90000000000000#64).natAbs = overflowUnits * (1 : Int).natAbs ∧
    (f64Units 0x7FEFFFFFFFFFFFFF#64 + f64Units 0x7C8FFFFFFFFFFFFF#64).natAbs < overflowUnits * (1 : Int).natAbs ∧
    (f64Units 0x7FEFFFFFFFFFFFFF#64 - f64Units 0xFC90000000000000#64).natAbs = overflowUnits * (1 : Int).natAbs ∧
    (f64Units 0x7FEFFFFFFFFFFFFF#64 - f64Units 0x7C90000000000000#64).natAbs < overflowUnits * (1 : Int).natAbs ∧
    fpOp .fadd 0x7FEFFFFFFFFFFFFF#64 0x7C90000000000000#64 = 0x7FF0000000000000#64 ∧
    fpOp .fadd 0x7FEFFFFFFFFFFFFF#64 0x7C8FFFFFFFFFFFFF#64 = 0x7FEFFFFFFFFFFFFF#64 ∧
    fpOp .fsub 0xFFEFFFFFFFFFFFFF#64 0x7C90000000000000#64 = 0xFFF0000000000000#64 := by decide +kernel

/-- The threshold of a product: `(2^27 - 1) * 2^485` times `(2^27 + 1) * 2^485` reaches it exactly. Of a quotient: the largest
finite value divided by 1 and by -0.5. -/
theorem witness_float_product_threshold :
    f64Exp 0x5FEFFFFFFC000000#64 ≠ 2047 ∧ f64Exp 0x5FF0000002000000#64 ≠ 2047 ∧
    (f64Units 0x5FEFFFFFFC000000#64 * f64Units 0x5FF0000002000000#64).natAbs =
      overflowUnits * ((2 : Int) ^ 1074).natAbs ∧
    (f64Units 0x5FEFFFFFFC000000#64 * f64Units 0x5FF0000001FFFFFF#64).natAbs <
      overflowUnits * ((2 : Int) ^ 1074).natAbs ∧
    f64Units 0x3FF0000000000000#64 ≠ 0 ∧ f64Units 0xBFE0000000000000#64 ≠ 0 ∧
    (f64Units 0x7FEFFFFFFFFFFFFF#64 * 2 ^ 1074).natAbs < overflowUnits * (f64Units 0x3FF0000000000000#64).natAbs ∧
    overflowUnits * (f64Units 0xBFE0000000000000#64).natAbs ≤ (f64Units 0x7FEFFFFFFFFFFFFF#64 * 2 ^ 1074).natAbs ∧
    fpOp .fmul 0x5FEFFFFFFC000000#64 0x5FF0000002000000#64 = 0x7FF0000000000000#64 ∧
    fpOp .fmul 0x5FEFFFFFFC000000#64 0x5FF0000001FFFFFF#64 = 0x7FEFFFFFFFFFFFFE#64 ∧
    fpOp .fdiv 0x7FEFFFFFFFFFFFFF#64 0xBFE0000000000000#64 = 0xFFF0000000000000#64 := by decide +kernel

/-- `1 + 2^-53` lies midway between 1 and the next value; the difference `1 - 2^-54` midway between 1 and the one below. -/
theorem witness_float_sum :
    f64Exp 0x3FF0000000000000#64 ≠ 2047 ∧ f64Exp 0x3CA0000000000000#64 ≠ 2047 ∧
    fpOp .fadd 0x3FF0000000000000#64 0x3CA0000000000000#64 = 0x3FF0000000000000#64 ∧
    f64Units 0x3FF0000000000001#64 ≠ f64Units 0x3FF0000000000000#64 ∧
    (f64Units 0x3FF0000000000000#64 - (f64Units 0x3FF0000000000000#64 + f64Units 0x3CA0000000000000#64)).natAbs =
      (f64Units 0x3FF0000000000001#64 - (f64Units 0x3FF0000000000000#64 + f64Units 0x3CA0000000000000#64)).natAbs ∧
    fpOp .fsub 0x3FF0000000000000#64 0x3C90000000000000#64 = 0x3FF0000000000000#64 ∧
    (f64Units 0x3FF0000000000000#64 - (f64Units 0x3FF0000000000000#64 - f64Units 0x3C90000000000000#64)).natAbs =
      (f64Units 0x3FEFFFFFFFFFFFFF#64 - (f64Units 0x3FF0000000000000#64 - f64Units 0x3C90000000000000#64)).natAbs := by
  decide +kernel

/-- The smallest subnormal times 1.5, and three times the smallest subnormal divided by 2: both midway between 1 and 2 of it. -/
theorem witness_float_product :
    f64Exp 1 ≠ 2047 ∧ f64Exp 0x3FF8000000000000#64 ≠ 2047 ∧ f64Exp 0x4000000000000000#64 ≠ 2047 ∧
    f64Units 0x4000000000000000#64 ≠ 0 ∧ fpOp .fmul 1 0x3FF8000000000000#64 = 2 ∧
    fpOp .fdiv 3 0x4000000000000000#64 = 2 ∧ f64Exp 2 ≠ 2047 ∧ f64Units 1 ≠ f64Units 2 ∧
    (f64Units 2 * 2 ^ 1074 - f64Units 1 * f64Units 0x3FF8000000000000#64).natAbs =
      (f64Units 1 * 2 ^ 1074 - f64Units 1 * f64Units 0x3FF8000000000000#64).natAbs ∧
    (f64Units 2 * f64Units 0x4000000000000000#64 - f64Units 3 * 2 ^ 1074).natAbs =
      (f64Units 1 * f64Units 0x4000000000000000#64 - f64Units 3 * 2 ^ 1074).natAbs := by
  decide +kernel

theorem witness_memory :
    s0.dmem.wf ∧ (8 : Word) >>> 3 = (15 : Word) >>> 3 ∧ (7 : Word) >>> 3 ≠ (8 : Word) >>> 3 := by decide

theorem witness_canonical : s0.dmem.wf ∧ ∀ a, readByte s0.dmem a = readByte s0.dmem a := ⟨by decide, fun _ => rfl⟩

/-- The state of the tests is ready for every class under its REF entry. -/
theorem ready_for (m : Mnemonic) : s0.ReadyFor m :=
  ⟨ready_s0, by decide, by cases m <;> decide⟩

theorem witness_integer : s0.ReadyFor .add ∧ s0.ReadyFor .sub ∧ s0.ReadyFor .mul ∧ s0.ReadyFor .addi :=
  ⟨ready_for _, ready_for _, ready_for _, ready_for _⟩

theorem witness_div_instruction :
    s0.ReadyFor .div ∧ readGpr s0 0 = 0 ∧ (readGpr s0 7 = intMin ∧ readGpr s0 8 = BitVec.allOnes 64) ∧
    (readGpr s0 8 ≠ 0 ∧ ¬(readGpr s0 1 = intMin ∧ readGpr s0 8 = BitVec.allOnes 64)) :=
  ⟨ready_for _, by decide, by decide, by decide⟩

theorem witness_float : s0.ReadyFor .fadd ∧ s0.ReadyFor .fsub ∧ s0.ReadyFor .fmul ∧ s0.ReadyFor .fdiv :=
  ⟨ready_for _, ready_for _, ready_for _, ready_for _⟩

theorem witness_logic : s0.ReadyFor .and ∧ s0.ReadyFor .or ∧ s0.ReadyFor .xor ∧ s0.ReadyFor .not :=
  ⟨ready_for _, ready_for _, ready_for _, ready_for _⟩

theorem witness_shift_instructions : s0.ReadyFor .shl ∧ s0.ReadyFor .shr ∧ s0.ReadyFor .shli ∧ s0.ReadyFor .shri :=
  ⟨ready_for _, ready_for _, ready_for _, ready_for _⟩

theorem witness_branches : s0.ReadyFor .bne ∧ s0.ReadyFor .bgt := ⟨ready_for _, ready_for _⟩

/-- With the whole address space in range, every data address is. -/
theorem wide_in_range (a : Word) : dmemOut (stateOf wideParams).params a = false := by
  have h : (a >>> 3).toNat < 2 ^ 61 := by
    rw [BitVec.toNat_ushiftRight, Nat.shiftRight_eq_div_pow]
    have := a.isLt
    omega
  have e : (stateOf wideParams).params.dmemCells = 2 ^ 61 := rfl
  simp only [dmemOut, e, dmemIndex, Config.daddrShift]
  exact decide_eq_false (by omega)

theorem ready_wide (m : Mnemonic) : (stateOf wideParams).ReadyFor m :=
  ⟨⟨by decide, by decide, by decide⟩, by decide, by cases m <;> decide⟩

/-- CALL's link-register-relative address is in range, whatever `LINK_REL` is. -/
theorem witness_call :
    (stateOf wideParams).ReadyFor .call ∧ (stateOf wideParams).dmem.wf ∧
    dmemOut (stateOf wideParams).params
      (Config.linkRel (readGpr (stateOf wideParams) (stateOf wideParams).params.linkIndex) 4095) = false :=
  ⟨ready_wide _, by decide, wide_in_range _⟩

theorem witness_ret :
    (stateOf wideParams).ReadyFor .ret ∧
    dmemOut (stateOf wideParams).params
      (Config.linkRel (readGpr (stateOf wideParams) (stateOf wideParams).params.linkIndex) 4095) = false :=
  ⟨ready_wide _, wide_in_range _⟩

/-- The last address in range and the first out of it, 15 and 16. -/
theorem witness_load :
    s0.ReadyFor .load ∧ dmemOut s0.params (readGpr s0 4 + (3 : Imm).setWidth 64) = false ∧
    dmemOut s0.params (readGpr s0 4 + (4 : Imm).setWidth 64) = true := ⟨ready_for _, by decide, by decide⟩

theorem witness_store :
    s0.ReadyFor .store ∧ s0.dmem.wf ∧ dmemOut s0.params (readGpr s0 4 + (3 : Imm).setWidth 64) = false ∧
    dmemOut s0.params (readGpr s0 4 + (4 : Imm).setWidth 64) = true := ⟨ready_for _, by decide, by decide, by decide⟩

/-- LOAD and STORE at the first address out of range, as numbered rows and as classes. -/
theorem witness_out_of_range :
    s0.Ready ∧ cycleAlu (lookup s0.params 21 ⟨10, 4, 0, 4⟩) s0 = .ok 16 ∧ (entryOf s0.params 21).mem.op ≠ .none ∧
    dmemOut s0.params (cycleAddr (lookup s0.params 21 ⟨10, 4, 0, 4⟩) 16 s0) = true ∧
    cycleAlu (lookup s0.params (s0.params.opc .store) ⟨10, 4, 4, 4⟩) s0 = .ok 16 ∧
    (entryOf s0.params (s0.params.opc .store)).mem.op ≠ .none ∧
    dmemOut s0.params (cycleAddr (lookup s0.params (s0.params.opc .store) ⟨10, 4, 4, 4⟩) 16 s0) = true :=
  ⟨ready_s0, by decide, by decide, by decide, by decide, by decide, by decide⟩

theorem witness_moves : s0.ReadyFor .mov ∧ s0.ReadyFor .movi ∧ s0.ReadyFor .movhi :=
  ⟨ready_for _, ready_for _, ready_for _⟩

theorem witness_stubs : s0.ReadyFor .inp ∧ s0.ReadyFor .outp := ⟨ready_for _, ready_for _⟩

theorem witness_halt : s0.ReadyFor .halt ∧ ∃ t, exec (.halt ⟨0, 0, 0, 0⟩) s0 = .next t := ⟨ready_for _, ⟨_, rfl⟩⟩

theorem witness_undefined :
    s0.Ready ∧ s0.params.defined 29 = false ∧ legalParams s0.params = true := ⟨ready_s0, by decide, by decide⟩

end Sys2Proof.Tests
end

section
/-! SUPPORT. The proofs of the statements about the committed state (10_state.md): the guard register (O31), and the
invariant kept by every tick (O28) and by every step (O29). Each rests on one fact about `tickOf` under any control record,
which the induction over ticks carries to the machine's ticks and steps. -/

namespace Sys2Proof.Machine

/-! ### The tick and the step by the fetched word -/

/-- A word was fetched exactly where the fetch address is in range. -/
theorem imemOut_eq_false_of_fetchWord {s : State} {w : InstrWord} (h : fetchWord s = .ok w) :
    imemOut s.params (efa s) = false := by
  cases hout : imemOut s.params (efa s) with
  | false => rfl
  | true => rw [fetchWord_error hout] at h; cases h

/-- A running machine's tick is the tick of the fetched word's control record. -/
theorem tick_eq_tickOf {s : State} {w : InstrWord} (hrun : s.stop = false) (hw : fetchWord s = .ok w) :
    tick s = tickOf (decodeWires s.params w) s := by
  simp [tick, hrun, hw]

/-- What every tick keeps under any control record, the tick of the fetched word keeps. -/
theorem tick_induct {P : State → Prop} (hP : ∀ d s t, P s → tickOf d s = .next t → P t) {s t : State} (hs : P s)
    (h : tick s = .next t) : P t := by
  rcases tick_next h with ⟨_, rfl⟩ | ⟨_, w, _, h⟩
  · exact hs
  · exact hP _ s t hs h

/-- What every tick keeps under any control record, the machine's ticks and steps keep. -/
theorem tick_or_step_induct {P : State → Prop} (hP : ∀ d s t, P s → tickOf d s = .next t → P t) {s t : State} (hs : P s)
    (h : tick s = .next t ∨ step s = .next t) : P t :=
  h.elim (tick_induct hP hs) (step_induct hP hs)

/-! ### The guard register (10_state.md R23) -/

/-- The guard holds `GUARD_VALUE` at reset. -/
theorem readReg_resetWith_guard (p : Params) : readReg (.resetWith p) guardIndex = p.guardValue :=
  writeReg_same _ _ _

/-- A register write that passes the check of R172 leaves the guard as it was. -/
theorem applyRegWrite_guard {d : Decoded} {s : State} (h : guardHit d s = false) :
    (applyRegWrite s.x (regWrite d s))[guardIndex] = s.x[guardIndex] := by
  unfold guardHit at h
  cases hw : regWrite d s with
  | none => rw [applyRegWrite_none]
  | some w =>
    have hne : guardIndex ≠ w.1 := fun e => by simp [hw, e] at h
    exact writeReg_other s.x w.2 hne

/-- No completed tick changes the guard, whatever its control record. -/
theorem tickOf_guard {d : Decoded} {s t : State} (h : tickOf d s = .next t) :
    readReg t guardIndex = readReg s guardIndex := by
  rcases tickOf_next h with ⟨_, rfl⟩ | ⟨_, _, hguard, _, _, v, _, rfl⟩
  · rfl
  · exact applyRegWrite_guard hguard

/-- A Writeback tick whose destination slot is off is the fatal guard write (43_regfile.md R172). -/
theorem tick_writeback_off {s : State} {w : InstrWord} (hrun : s.stop = false) (hw : fetchWord s = .ok w)
    (hst : s.stage = .writeback) (hreg : (entryOf s.params (opcodeField w)).wb.dest = .reg)
    (hoff : (entryOf s.params (opcodeField w)).map.rd = .off) :
    tick s = .fault (.guardWrite (opcodeField w) s) := by
  have hidx : rdIndex s.params (decodeWires s.params w) = guardIndex := mapIndex_eq_guard.mpr hoff
  rw [tick_eq_tickOf hrun hw, tickOf_writeback hrun (imemOut_eq_false_of_fetchWord hw) hst, if_pos ⟨hreg, hidx⟩]
  rfl

/-- Settles O31: the frame of ticks and steps is `tickOf_guard`, tick by tick. -/
theorem guardRegisterNeverWritten : Obligations.GuardRegisterNeverWritten := by
  refine ⟨readReg_resetWith_guard, fun s f => by rw [mapIndex_off], fun s t h => ?_,
    fun s w hrun hw hst hreg hoff => tick_writeback_off hrun hw hst hreg hoff⟩
  exact tick_or_step_induct (P := fun u => readReg u guardIndex = readReg s guardIndex)
    (fun _ _ _ hu ht => (tickOf_guard ht).trans hu) rfl h

/-! ### The stage sequence (70_reset_and_hazards.md R340) -/

/-- Fetch follows Writeback and no other stage. -/
theorem nextStage_eq_fetch {st : Stage} : nextStage st = .fetch ↔ st = .writeback := by
  cases st <;> simp [nextStage]

/-- Each tick is one more of the cycle's five. -/
theorem ticksDone_nextStage (st : Stage) : ticksDone (nextStage st) = (ticksDone st + 1) % 5 := by
  cases st <;> rfl

/-- The PC write is driven in the Writeback tick and in no other (46_writeback.md R234). -/
theorem pcWrite_isSome {d : Decoded} {s : State} : (pcWrite d s).isSome ↔ s.stage = .writeback := by
  by_cases h : s.stage = .writeback
  · simp [pcWrite, h]
  · simp [pcWrite_none h, h]

/-! ### The data memory's capacity (20_memory.md R57) -/

/-- A write at an address in range puts no byte past the data memory's capacity. -/
theorem memWrite_capacity {p : Params} {m : Memory} {a v : Word} (hm : ∀ c ∈ m, c.1 < p.dmemBytes)
    (ha : dmemOut p a = false) : ∀ c ∈ memWrite m a v, c.1 < p.dmemBytes := by
  intro c hc
  have hidx : dmemIndex a < p.dmemCells := by simpa [dmemOut] using ha
  rcases mem_writeCell hc with ⟨_, hlt⟩ | hold
  · unfold Params.dmemBytes
    omega
  · exact hm c hold

/-! ### The invariant -/

/-- The edge of a tick that passed the checks of R118 keeps the invariant, whatever the control record and the ALU's value. -/
theorem nextState_inv {d : Decoded} {v : Word} {s : State} (hs : s.Inv) (hfetch : imemOut s.params (efa s) = false)
    (hguard : guardHit d s = false) (hstore : doStore d s = true → dmemOut s.params (effAddr d s) = false) :
    (nextState d v s).Inv where
  params_legal := hs.params_legal
  guard_value := (applyRegWrite_guard hguard).trans hs.guard_value
  redirect_iff := by simp [pcWrite_isSome, nextStage_eq_fetch]
  clock_stage := by
    rw [nextState_clock, nextState_stage, ticksDone_nextStage, ← hs.clock_stage]
    omega
  pc_in_range := fun _ => by
    rw [nextState_params, nextState_pc]
    split
    · exact hfetch
    · next hne => exact hs.pc_in_range (by simpa using hne)
  imem_canonical := hs.imem_canonical
  dmem_canonical := by
    rw [nextState_dmem]
    split
    · exact memWrite_wf hs.dmem_canonical _ _
    · exact hs.dmem_canonical
  imem_capacity := hs.imem_capacity
  dmem_capacity := by
    rw [nextState_dmem, nextState_params]
    split
    · next hd => exact memWrite_capacity hs.dmem_capacity (hstore hd)
    · exact hs.dmem_capacity

/-- Every completed tick keeps the invariant, whatever its control record. -/
theorem tickOf_inv (d : Decoded) (s t : State) (hs : s.Inv) (h : tickOf d s = .next t) : t.Inv := by
  rcases tickOf_next h with ⟨_, rfl⟩ | ⟨_, hfetch, hguard, hstore, _, v, _, rfl⟩
  · exact hs
  · exact nextState_inv hs hfetch hguard hstore

/-- Settles O28: `tickOf_inv` at the fetched word's control record. -/
theorem tickKeepsInvariant : Obligations.TickKeepsInvariant :=
  fun _ _ => tick_induct tickOf_inv

/-- Settles O29, by induction over the ticks of the step. -/
theorem stepKeepsInvariant : Obligations.StepKeepsInvariant :=
  fun _ _ => step_induct tickOf_inv

end Sys2Proof.Machine
end

section
/-! SUPPORT. The proofs of the statements about the memories (20_memory.md): a canonical memory is determined by its bytes
(O45), a cell read after a cell write (O44), the instruction address and the placed word (O14, O13), and what a tick does
to the two memories (O21, O30). A cell and an instruction word are compared byte by byte, so that `readByte_writeCell` and
its counterpart `readByte_placeWord` say all that a write does. -/

namespace Sys2Proof.Machine

/-! ### A canonical memory is determined by its bytes (log entry 11) -/

/-- The entries of a canonical memory are its bytes that differ from an unlisted one. -/
theorem mem_iff_readByte {m : Memory} (hm : m.wf) (c : Host.Cell) :
    c ∈ m ↔ readByte m c.1 = c.2 ∧ c.2 ≠ unlistedByte := by
  induction m with
  | nil => simp [eq_comm]
  | cons e m ih =>
    obtain ⟨hlt, hp⟩ := List.pairwise_cons.mp hm.1
    have hm' : Memory.wf m := ⟨hp, fun x hx => hm.2 x (by simp [hx])⟩
    rw [List.mem_cons, readByte_cons]
    by_cases hc : e.1 = c.1
    · have hnot : c ∉ m := fun hmem => (hlt c hmem).ne hc
      have he : e.2 ≠ unlistedByte := hm.2 e (by simp)
      rw [if_pos hc, or_iff_left hnot]
      exact ⟨by rintro rfl; exact ⟨rfl, he⟩, fun h => Prod.ext hc.symm h.1.symm⟩
    · have hne : c ≠ e := fun h => hc (congrArg Prod.fst h.symm)
      rw [if_neg hc, or_iff_right hne, ih hm']

/-- A canonical memory lists no entry twice. -/
theorem nodup_of_wf {m : Memory} (hm : m.wf) : m.Nodup :=
  hm.1.imp fun hlt e => hlt.ne (congrArg Prod.fst e)

/-- Settles O45: the two memories have the same entries, and a canonical memory lists its entries in rising order. -/
theorem canonicalMemoriesEqual : Obligations.CanonicalMemoriesEqual := by
  intro m n hm hn h
  have hmem : ∀ c, c ∈ m ↔ c ∈ n := fun c => by rw [mem_iff_readByte hm, mem_iff_readByte hn, h]
  have hperm : m.Perm n := (List.perm_ext_iff_of_nodup (nodup_of_wf hm) (nodup_of_wf hn)).mpr hmem
  exact hperm.eq_of_pairwise (fun _ _ _ _ hab hba => (hab.asymm hba).elim) hm.1 hn.1

/-! ### Words by their bytes -/

/-- Two words of `n` bytes that agree on every byte are equal. -/
theorem eq_of_bytes_eq {n : Nat} {u v : BitVec (8 * n)}
    (h : ∀ k < n, u.extractLsb' (8 * k) 8 = v.extractLsb' (8 * k) 8) : u = v := by
  refine BitVec.eq_of_getLsbD_eq fun j hj => ?_
  have hbit := congrArg (fun b => b.getLsbD (j % 8)) (h (j / 8) (by omega))
  simpa [BitVec.getLsbD_extractLsb', Nat.mod_lt, Nat.div_add_mod] using hbit

/-- Byte `k` of a cell is the byte at the cell's address plus `k` (log entry 11). -/
theorem cellByte_readCell (m : Memory) (i : Nat) {k : Nat} (hk : k < 8) :
    cellByte (readCell m i) k = readByte m (8 * i + k) := by
  unfold cellByte readCell cellBase
  interval_cases k <;>
    simp (disch := omega) only [BitVec.extractLsb'_append_eq_of_add_le, BitVec.extractLsb'_append_eq_of_le,
      BitVec.extractLsb'_eq_self, Nat.mul_zero, Nat.add_zero, Nat.reduceMul, Nat.reduceSub]

/-- Bits of a field of a word are bits of the word. -/
theorem extractLsb'_extractLsb' {n start len start' len' : Nat} {v : BitVec n} (h : start' + len' ≤ len) :
    (v.extractLsb' start len).extractLsb' start' len' = v.extractLsb' (start + start') len' := by
  refine BitVec.eq_of_getLsbD_eq fun j hj => ?_
  simp [hj, Nat.add_assoc, show start' + j < len by omega]

/-! ### A cell read after a cell write -/

theorem readCell_writeCell_same {m : Memory} (hm : m.wf) (i : Nat) (v : Word) : readCell (writeCell m i v) i = v := by
  refine eq_of_bytes_eq (n := 8) fun k hk => ?_
  calc cellByte (readCell (writeCell m i v) i) k
      = readByte (writeCell m i v) (8 * i + k) := cellByte_readCell _ _ hk
    _ = cellByte v k := by
        rw [readByte_writeCell hm, if_pos ⟨by omega, by omega⟩, Nat.add_sub_cancel_left]

theorem readCell_writeCell_other {m : Memory} (hm : m.wf) {i j : Nat} (hij : i ≠ j) (v : Word) :
    readCell (writeCell m i v) j = readCell m j :=
  readCell_congr fun k hk => by rw [readByte_writeCell hm, if_neg (by omega)]

/-- Settles O44: addresses select the same cell exactly where they agree above bit 2. -/
theorem storeThenLoadReturnsValue : Obligations.StoreThenLoadReturnsValue := by
  intro m a b v hm
  have hcell : a >>> 3 = b >>> 3 ↔ dmemIndex a = dmemIndex b := BitVec.toNat_inj.symm
  refine ⟨fun hab => ?_, fun hab => ?_⟩
  · unfold memRead memWrite
    rw [hcell.mp hab]
    exact readCell_writeCell_same hm _ v
  · exact readCell_writeCell_other hm (fun h => hab (hcell.mpr h)) v

/-! ### Instruction addresses (R55, R56) -/

/-- Clearing bits 1 and 0 leaves every bit above them. -/
theorem getLsbD_clearLowBits (a : Word) {j : Nat} (hj : 2 ≤ j) : (a &&& ~~~3#64).getLsbD j = a.getLsbD j := by
  have h3 : (3#64).getLsbD j = false := Nat.testBit_lt_two_pow (Nat.pow_le_pow_right (n := 2) (by omega) hj)
  rw [BitVec.getLsbD_and, BitVec.getLsbD_not, h3]
  by_cases hw : j < 64
  · simp [hw]
  · simp [BitVec.getLsbD_of_ge a j (Nat.le_of_not_lt hw)]

theorem imemIndex_clearLowBits (a : Word) : imemIndex (a &&& ~~~3#64) = imemIndex a := by
  have hshift : (a &&& ~~~3#64) >>> 3 = a >>> 3 := BitVec.eq_of_getLsbD_eq fun j _ => by
    simp only [BitVec.getLsbD_ushiftRight]
    exact getLsbD_clearLowBits a (by omega)
  exact congrArg BitVec.toNat hshift

/-- Settles O14: the cell index and the half's bit lie above the two bits. -/
theorem fetchIgnoresLowBits : Obligations.FetchIgnoresLowBits := by
  refine ⟨fun m a => ?_, fun p a => ?_, fun s hin => fetchWord_ok hin⟩
  · unfold imemRead
    rw [imemIndex_clearLowBits, getLsbD_clearLowBits a le_rfl]
  · unfold imemOut
    rw [imemIndex_clearLowBits]

/-! ### A placed instruction word (log entries 11, 14) -/

/-- Byte `k` of the word that `IMemRead(a)` answers is the byte at the word's address plus `k`. -/
theorem byteOfWord_imemRead (m : Memory) (a : Word) {k : Nat} (hk : k < 4) :
    byteOfWord (imemRead m a) k = readByte m (instrBase a + k) := by
  have hhalf : ∀ h ≤ 4, byteOfWord ((readCell m (imemIndex a)).extractLsb' (8 * h) 32) k =
      readByte m (8 * imemIndex a + h + k) := by
    intro h hh
    calc byteOfWord ((readCell m (imemIndex a)).extractLsb' (8 * h) 32) k
        = cellByte (readCell m (imemIndex a)) (h + k) := by
          unfold byteOfWord cellByte
          rw [extractLsb'_extractLsb' (by omega), Nat.mul_add]
      _ = readByte m (8 * imemIndex a + h + k) := by
          rw [cellByte_readCell m _ (by omega), Nat.add_assoc]
  unfold imemRead instrBase cellBase
  split
  · exact hhalf 4 le_rfl
  · exact hhalf 0 (Nat.zero_le _)

/-- A byte read after an instruction word is placed: the word's byte inside it, as before outside it. -/
theorem readByte_placeWord {m : Memory} (hm : m.wf) (a : Word) (w : InstrWord) (b : Nat) :
    readByte (placeWord m a w) b =
      if instrBase a ≤ b ∧ b < instrBase a + 4 then byteOfWord w (b - instrBase a) else readByte m b := by
  unfold placeWord
  have h1 := writeByte_wf hm (instrBase a) (byteOfWord w 0)
  have h2 := writeByte_wf h1 (instrBase a + 1) (byteOfWord w 1)
  have h3 := writeByte_wf h2 (instrBase a + 2) (byteOfWord w 2)
  rw [readByte_writeByte h3, readByte_writeByte h2, readByte_writeByte h1, readByte_writeByte hm]
  by_cases hb : instrBase a ≤ b ∧ b < instrBase a + 4
  · obtain ⟨k, rfl⟩ := Nat.exists_eq_add_of_le hb.1
    have hk : k < 4 := by omega
    rw [if_pos hb, Nat.add_sub_cancel_left]
    interval_cases k <;> simp
  · rw [if_neg hb, if_neg (by omega), if_neg (by omega), if_neg (by omega), if_neg (by omega)]

theorem imemRead_placeWord {m : Memory} (hm : m.wf) (a : Word) (w : InstrWord) : imemRead (placeWord m a w) a = w := by
  refine eq_of_bytes_eq (n := 4) fun k hk => ?_
  calc byteOfWord (imemRead (placeWord m a w) a) k
      = readByte (placeWord m a w) (instrBase a + k) := byteOfWord_imemRead _ _ hk
    _ = byteOfWord w k := by
        rw [readByte_placeWord hm, if_pos ⟨by omega, by omega⟩, Nat.add_sub_cancel_left]

/-- A placed word is the one fetched. -/
theorem fetchWord_placeInstr {s : State} (hm : s.imem.wf) (hin : imemOut s.params (efa s) = false) (w : InstrWord) :
    fetchWord (placeInstr s w) = .ok w := by
  rw [fetchWord_ok (by simpa using hin), placeInstr_efa, placeInstr_imem, imemRead_placeWord hm]

/-- A running machine's step is the instruction of the fetched word. -/
theorem step_eq_exec {s : State} {w : InstrWord} (hrun : s.stop = false) (hw : fetchWord s = .ok w) :
    step s = exec (decode w) s := by
  simp [step, hrun, hw]

/-- All 32 bits of a number are an instruction word. -/
theorem tableWord_32 (w : Nat) : tableWord 32 w = BitVec.ofNat 32 w :=
  BitVec.eq_of_toNat_eq (by simp [tableWord])

/-- Settles O13: the fetch by `fetchWord_placeInstr`, the frame by `readByte_placeWord`. -/
theorem placedWordIsFetched : Obligations.PlacedWordIsFetched := by
  intro s w hm hin
  unfold State.withFetchWord
  rw [tableWord_32]
  have hfetch := fetchWord_placeInstr hm hin (BitVec.ofNat 32 w)
  refine ⟨hfetch, step_eq_exec (placeInstr_stop _ _) hfetch, fun a ha => ?_⟩
  rw [placeInstr_imem, readByte_placeWord hm, if_neg (by omega)]

/-! ### What a tick does to the memories -/

/-- No completed tick changes the instruction memory or the parameters, whatever its control record. -/
theorem tickOf_program {d : Decoded} {s t : State} (h : tickOf d s = .next t) : t.imem = s.imem ∧ t.params = s.params := by
  rcases tickOf_next h with ⟨_, rfl⟩ | ⟨_, _, _, _, _, v, _, rfl⟩
  · exact ⟨rfl, rfl⟩
  · exact ⟨nextState_imem d v s, nextState_params d v s⟩

/-- Settles O30: `tickOf_program`, tick by tick. -/
theorem programNeverChanges : Obligations.ProgramNeverChanges := by
  intro s t h
  refine tick_or_step_induct (P := fun u => u.imem = s.imem ∧ u.params = s.params) (fun _ u u' hu htick => ?_) ⟨rfl, rfl⟩ h
  obtain ⟨himem, hparams⟩ := tickOf_program htick
  exact ⟨himem.trans hu.1, hparams.trans hu.2⟩

/-- The edge of a running machine's completed tick, under the fetched word's control record. -/
theorem tick_eq_nextState {s t : State} {w : InstrWord} (hrun : s.stop = false) (hw : fetchWord s = .ok w)
    (h : tick s = .next t) : ∃ v, t = nextState (decodeWires s.params w) v s := by
  rw [tick_eq_tickOf hrun hw] at h
  rcases tickOf_next h with ⟨hstop, _⟩ | ⟨_, _, _, _, _, v, _, ht⟩
  · simp [hrun] at hstop
  · exact ⟨v, ht⟩

/-- The write port is driven exactly in the Memory tick of a store (45_lsu.md R214). -/
theorem doStore_iff {d : Decoded} {s : State} : doStore d s = true ↔ s.stage = .memory ∧ d.entry.mem.op = .store := by
  simp [doStore]

/-- The read address is `ea` in the Memory tick of a load and the neutral address elsewhere (45_lsu.md R215). -/
theorem readAddr_eq (d : Decoded) (s : State) :
    readAddr d s = if s.stage = .memory ∧ d.entry.mem.op = .load then effAddr d s else 0 := by
  simp [readAddr, Config.neutralAddr]

/-- Settles O21, by the write port's enable and the read address. -/
theorem dataMemoryPorts : Obligations.DataMemoryPorts := by
  intro s t w hrun hw h
  obtain ⟨v, rfl⟩ := tick_eq_nextState hrun hw h
  rw [nextState_dmem, nextState_memRdata, readAddr_eq]
  exact ⟨fun hno => if_neg fun hd => hno (doStore_iff.mp hd), fun hst hop => if_pos (doStore_iff.mpr ⟨hst, hop⟩),
    fun hst hop => congrArg _ (if_pos ⟨hst, hop⟩), fun hno => congrArg _ (if_neg hno)⟩

end Sys2Proof.Machine
end

section
/-! SUPPORT. The proofs of the statements about the encoding (30_encoding.md): the places of the fields (O1), the two round
trips of the codec (O2, O3), its vector words (O4), the operand fields (O6), the image builder (O7), and the guard under a
well-formed table (O35). A word is read as a number: `pack_toNat` and `unpackFields_toNat` are all that the codec's proofs
use of its shifts. -/

namespace Sys2Proof

/-! ### The places of the fields (R82) -/

/-- A field or-ed in above the bits in use adds its value at its place. -/
theorem toNat_or_shiftLeft {n place : Nat} {low : InstrWord} (v : BitVec n) (hlow : low.toNat < 2 ^ place)
    (hfit : place + n ≤ 32) : (low ||| (v.setWidth 32 <<< place)).toNat = low.toNat + v.toNat * 2 ^ place := by
  have hv : v.toNat * 2 ^ place < 2 ^ 32 := calc
    v.toNat * 2 ^ place < 2 ^ n * 2 ^ place := Nat.mul_lt_mul_of_pos_right v.isLt (Nat.two_pow_pos place)
    _ = 2 ^ (place + n) := by rw [Nat.pow_add, Nat.mul_comm]
    _ ≤ 2 ^ 32 := Nat.pow_le_pow_right (by decide) hfit
  have hshift : (v.setWidth 32 <<< place).toNat = v.toNat <<< place := by
    rw [BitVec.toNat_shiftLeft, BitVec.toNat_setWidth_of_le (by omega), Nat.shiftLeft_eq, Nat.mod_eq_of_lt hv]
  rw [BitVec.toNat_or, hshift, Nat.or_comm, ← Nat.shiftLeft_add_eq_or_of_lt hlow, Nat.shiftLeft_eq, Nat.add_comm]

/-- The packed word as a number: each field is or-ed in above those before it. -/
theorem pack_toNat (opc : Opcode) (f : Fields) :
    (pack opc f).toNat =
      opc.toNat + f.rd.toNat * 2 ^ 5 + f.rs.toNat * 2 ^ 10 + f.rt.toNat * 2 ^ 15 + f.imm.toNat * 2 ^ 20 := by
  have hopc : (opc.setWidth 32).toNat = opc.toNat := BitVec.toNat_setWidth_of_le (by decide)
  have hrd := toNat_or_shiftLeft (place := 5) f.rd (hopc.trans_lt opc.isLt) (by decide)
  have hrs := toNat_or_shiftLeft (place := 10) f.rs (hrd.trans_lt (by omega)) (by decide)
  have hrt := toNat_or_shiftLeft (place := 15) f.rt (hrs.trans_lt (by omega)) (by decide)
  have himm := toNat_or_shiftLeft (place := 20) f.imm (hrt.trans_lt (by omega)) (by decide)
  rw [hrt, hrs, hrd, hopc] at himm
  exact himm

theorem toNat_extractLsb' (w : InstrWord) (place n : Nat) :
    (w.extractLsb' place n).toNat = w.toNat / 2 ^ place % 2 ^ n := by
  rw [BitVec.extractLsb'_toNat, Nat.shiftRight_eq_div_pow]

theorem opcodeField_toNat (w : InstrWord) : (opcodeField w).toNat = w.toNat % 2 ^ 5 :=
  (toNat_extractLsb' w 0 5).trans (by rw [Nat.pow_zero, Nat.div_one])

theorem unpackFields_toNat (w : InstrWord) :
    (unpackFields w).rd.toNat = w.toNat / 2 ^ 5 % 2 ^ 5 ∧ (unpackFields w).rs.toNat = w.toNat / 2 ^ 10 % 2 ^ 5 ∧
    (unpackFields w).rt.toNat = w.toNat / 2 ^ 15 % 2 ^ 5 ∧ (unpackFields w).imm.toNat = w.toNat / 2 ^ 20 :=
  ⟨toNat_extractLsb' w 5 5, toNat_extractLsb' w 10 5, toNat_extractLsb' w 15 5,
    (toNat_extractLsb' w 20 12).trans (Nat.mod_eq_of_lt (by omega))⟩

/-! ### Packing and unpacking are inverse (R82) -/

/-- Fields are equal where their numbers are. -/
theorem fields_eq_of_toNat_eq {f g : Fields} (hrd : f.rd.toNat = g.rd.toNat) (hrs : f.rs.toNat = g.rs.toNat)
    (hrt : f.rt.toNat = g.rt.toNat) (himm : f.imm.toNat = g.imm.toNat) : f = g := by
  cases f
  cases g
  rw [Fields.mk.injEq]
  exact ⟨BitVec.eq_of_toNat_eq hrd, BitVec.eq_of_toNat_eq hrs, BitVec.eq_of_toNat_eq hrt, BitVec.eq_of_toNat_eq himm⟩

@[simp] theorem opcodeField_pack (opc : Opcode) (f : Fields) : opcodeField (pack opc f) = opc := by
  apply BitVec.eq_of_toNat_eq
  rw [opcodeField_toNat, pack_toNat]
  omega

@[simp] theorem unpackFields_pack (opc : Opcode) (f : Fields) : unpackFields (pack opc f) = f := by
  obtain ⟨hrd, hrs, hrt, himm⟩ := unpackFields_toNat (pack opc f)
  rw [pack_toNat] at hrd hrs hrt himm
  apply fields_eq_of_toNat_eq <;> omega

@[simp] theorem pack_unpack (w : InstrWord) : pack (opcodeField w) (unpackFields w) = w := by
  obtain ⟨hrd, hrs, hrt, himm⟩ := unpackFields_toNat w
  apply BitVec.eq_of_toNat_eq
  rw [pack_toNat, opcodeField_toNat, hrd, hrs, hrt, himm]
  omega

/-- Settles O1, from the places of the fields as numbers. -/
theorem packUnpackLossless : Obligations.PackUnpackLossless :=
  ⟨pack_toNat, fun w => ⟨opcodeField_toNat w, unpackFields_toNat w⟩,
    fun opc f => ⟨opcodeField_pack opc f, unpackFields_pack opc f⟩, pack_unpack⟩

/-! ### Rows and opcode numbers (R95, R251) -/

/-- An instruction is its row with its fields. -/
@[simp] theorem row_instr_eta (i : Instr) : i.row.instr i.fields = i := by cases i <;> rfl

theorem mnemonic_mem_all (m : Mnemonic) : m ∈ Mnemonic.all := by cases m <;> decide

/-- The row that a number is decoded to has that number. -/
@[simp] theorem opcode_rowOf (p : Params) (k : Opcode) : (p.rowOf k).opcode p = k := by
  unfold Params.rowOf
  cases h : p.classOf k with
  | some m => exact classOf_some h
  | none => rfl

theorem opc_injective {p : Params} (hp : Machine.opcodesDistinct p = true) {m n : Mnemonic}
    (h : p.opc m = p.opc n) : m = n :=
  List.inj_on_of_nodup_map (of_decide_eq_true hp) (mnemonic_mem_all m) (mnemonic_mem_all n) h

/-- Where the opcode numbers are distinct, `OPC_<name>` belongs to its own class only. -/
theorem classOf_opc {p : Params} (hp : Machine.opcodesDistinct p = true) (m : Mnemonic) : p.classOf (p.opc m) = some m := by
  cases h : p.classOf (p.opc m) with
  | some n => rw [opc_injective hp (classOf_some h)]
  | none => exact absurd rfl (classOf_none h m)

/-- Where the opcode numbers are distinct, a well-formed row that is not numbered is the one its number is decoded to. -/
theorem rowOf_opcode {p : Params} (hp : Machine.opcodesDistinct p = true) {r : Row} (hwf : r.wf p = true)
    (hr : ∀ k, r ≠ .numbered k) : p.rowOf (r.opcode p) = r := by
  cases r with
  | numbered k => exact absurd rfl (hr k)
  | named m =>
    show p.rowOf (p.opc m) = .named m
    rw [Params.rowOf, classOf_opc hp]
  | undefined k =>
    have hnone : p.classOf k = none := by simpa [Row.wf, Params.defined] using hwf
    show p.rowOf k = .undefined k
    rw [Params.rowOf, hnone]

/-! ### The two round trips (R82, R93, R95) -/

@[simp] theorem decode_pack (k : Opcode) (f : Fields) : decode (pack k f) = .numbered k f := by
  rw [decode, opcodeField_pack, unpackFields_pack]

@[simp] theorem decodeNamed_pack (p : Params) (k : Opcode) (f : Fields) :
    decodeNamed p (pack k f) = (p.rowOf k).instr f := by
  rw [decodeNamed, opcodeField_pack, unpackFields_pack]

/-- The encoding of a row with given fields. -/
theorem encode_row_instr (p : Params) (r : Row) (f : Fields) : encode p (r.instr f) = pack (r.opcode p) f := by
  rw [encode, Instr.opcode, row_instr_row, row_instr_fields]

/-- Settles O2: the decoder's row of the encoded opcode number is the instruction's own row. -/
theorem decodeEncodeRoundTrip : Obligations.DecodeEncodeRoundTrip := by
  intro p i hp hwf
  refine ⟨fun k hk => ?_, fun hr => ?_⟩
  · calc decode (encode p i)
        = .numbered (i.row.opcode p) i.fields := decode_pack _ _
      _ = i.row.instr i.fields := by rw [hk]; rfl
      _ = i := row_instr_eta i
  · calc decodeNamed p (encode p i)
        = (p.rowOf (i.row.opcode p)).instr i.fields := decodeNamed_pack p _ _
      _ = i.row.instr i.fields := by rw [rowOf_opcode hp hwf hr]
      _ = i := row_instr_eta i

/-- Settles O3: either decoder's row of a word has the word's opcode number. -/
theorem encodeDecodeRoundTrip : Obligations.EncodeDecodeRoundTrip := by
  intro p w
  constructor
  · exact (encode_row_instr p (.numbered (opcodeField w)) _).trans (pack_unpack w)
  · rw [decodeNamed, encode_row_instr, opcode_rowOf, pack_unpack]

/-- Settles O4, by running the decoder on the seven words. -/
theorem decodesVectorWords : Obligations.DecodesVectorWords := by
  unfold Obligations.DecodesVectorWords
  decide

end Sys2Proof

namespace Sys2Proof.Machine

/-! ### The operand fields (R85, R91) -/

theorem immValue_toNat (imm : Imm) : (immValue imm).toNat = imm.toNat := BitVec.toNat_setWidth_of_le (by decide)

/-- Settles O6: an index is 32 exactly where it is the guard's, and the immediate keeps its 12-bit value. -/
theorem operandFieldsDecoded : Obligations.OperandFieldsDecoded := by
  intro p f imm
  refine ⟨rfl, rfl, fun m => Fin.ext_iff.symm.trans mapIndex_eq_guard, immValue_toNat imm, ?_⟩
  rw [immValue_toNat]
  omega

/-! ### The image builder (R83) -/

/-- A cell of two instruction words: the second in the high half. -/
theorem append_eq_shiftLeft_or (hi lo : InstrWord) : hi ++ lo = ((hi.setWidth 64 <<< 32) ||| lo.setWidth 64 : Word) := by
  rw [BitVec.append_def, BitVec.shiftLeftZeroExtend_eq, BitVec.setWidth'_eq]

/-- The cells hold the words two by two: cell `j` has word `2 * j` in its low half and word `2 * j + 1` in its high half. -/
def Paired (words : List InstrWord) (cells : List Word) : Prop :=
  2 * cells.length = words.length ∧
  ∀ (j : Nat) (lo hi : InstrWord), words[2 * j]? = some lo → words[2 * j + 1]? = some hi → cells[j]? = some (hi ++ lo)

theorem Paired.cons {words : List InstrWord} {cells : List Word} (h : Paired words cells) (lo hi : InstrWord) :
    Paired (lo :: hi :: words) ((hi ++ lo) :: cells) := by
  obtain ⟨hlen, hget⟩ := h
  refine ⟨by rw [List.length_cons, List.length_cons, List.length_cons]; omega, fun j lo' hi' hlo hhi => ?_⟩
  cases j with
  | zero =>
    obtain rfl : lo = lo' := Option.some.inj hlo
    obtain rfl : hi = hi' := Option.some.inj hhi
    rfl
  | succ j => exact hget j lo' hi' hlo hhi

theorem pairCells_of_even : ∀ {words : List InstrWord}, words.length % 2 = 0 →
    ∃ cells, pairCells words = some cells ∧ Paired words cells
  | [], _ => ⟨[], rfl, rfl, fun _ _ _ h => by simp at h⟩
  | [_], h => by simp at h
  | lo :: hi :: rest, h => by
    rw [List.length_cons, List.length_cons] at h
    obtain ⟨cells, hcells, hpaired⟩ := pairCells_of_even (words := rest) (by omega)
    exact ⟨(hi ++ lo) :: cells, by rw [pairCells, hcells, Option.map_some], hpaired.cons lo hi⟩

theorem pairCells_of_odd : ∀ {words : List InstrWord}, words.length % 2 = 1 → pairCells words = none
  | [], h => by simp at h
  | [_], _ => rfl
  | lo :: hi :: rest, h => by
    rw [List.length_cons, List.length_cons] at h
    rw [pairCells, pairCells_of_odd (by omega), Option.map_none]

/-! ### The cells of a loaded image (70_reset_and_hazards.md R333) -/

/-- A load from cell `i` on leaves the cells below it. -/
theorem readCell_loadCells_lt {m : Memory} (hm : m.wf) {i k : Nat} (hk : k < i) (image : List Word) :
    readCell (loadCells m i image) k = readCell m k := by
  induction image generalizing m i with
  | nil => rfl
  | cons v rest ih => rw [loadCells, ih (writeCell_wf hm i v) (by omega), readCell_writeCell_other hm (by omega)]

/-- A load from cell `i` on puts the image's entry `j` into cell `i + j`. -/
theorem readCell_loadCells {m : Memory} (hm : m.wf) {i j : Nat} {image : List Word} {v : Word} (h : image[j]? = some v) :
    readCell (loadCells m i image) (i + j) = v := by
  induction image generalizing m i j with
  | nil => simp at h
  | cons u rest ih =>
    have hm' := writeCell_wf hm i u
    cases j with
    | zero =>
      obtain rfl : u = v := Option.some.inj h
      exact (readCell_loadCells_lt hm' (Nat.lt_succ_self i) rest).trans (readCell_writeCell_same hm i u)
    | succ j =>
      rw [loadCells, Nat.add_comm j 1, ← Nat.add_assoc]
      exact ih hm' h

theorem readCell_imageMemory {image : List Word} {j : Nat} {v : Word} (h : image[j]? = some v) :
    readCell (imageMemory image) j = v := by
  rw [← Nat.zero_add j]
  exact readCell_loadCells wf_nil h

/-! ### The fetch of word `i` at byte address `4 * i` (R55, R83) -/

/-- Byte address `4 * i` selects half `i % 2` of cell `i / 2`. -/
theorem imemRead_ofNat (m : Memory) {i : Nat} (hi : 4 * i < 2 ^ 64) :
    imemRead m (BitVec.ofNat 64 (4 * i)) =
      if i % 2 = 1 then (readCell m (i / 2)).extractLsb' 32 32 else (readCell m (i / 2)).extractLsb' 0 32 := by
  have hindex : imemIndex (BitVec.ofNat 64 (4 * i)) = i / 2 := by
    rw [imemIndex, BitVec.toNat_ushiftRight, BitVec.toNat_ofNat, Nat.mod_eq_of_lt hi, Nat.shiftRight_eq_div_pow]
    omega
  have hhalf : (BitVec.ofNat 64 (4 * i)).getLsbD 2 = decide (i % 2 = 1) := by
    rw [BitVec.getLsbD_ofNat, Nat.testBit_eq_decide_div_mod_eq, Nat.mul_div_cancel_left i (by decide)]
    rfl
  simp only [imemRead, hindex, hhalf, decide_eq_true_eq]

/-- Each word of a loaded image of pairs is fetched in order. -/
theorem imemRead_imageMemory {words : List InstrWord} {cells : List Word} (hpaired : Paired words cells) {i : Nat}
    {w : InstrWord} (hw : words[i]? = some w) (hi : 4 * i < 2 ^ 64) :
    imemRead (imageMemory cells) (BitVec.ofNat 64 (4 * i)) = w := by
  obtain ⟨hlen, hget⟩ := hpaired
  have hlt : i < words.length := (List.getElem?_eq_some_iff.mp hw).1
  rw [imemRead_ofNat _ hi]
  rcases Nat.mod_two_eq_zero_or_one i with heven | hodd
  · obtain ⟨j, rfl⟩ : ∃ j, i = 2 * j := ⟨i / 2, by omega⟩
    have hnext : words[2 * j + 1]? = some words[2 * j + 1] := List.getElem?_eq_getElem (by omega)
    rw [if_neg (by omega), Nat.mul_div_cancel_left j (by decide), readCell_imageMemory (hget j _ _ hw hnext),
      BitVec.extractLsb'_append_eq_of_add_le (by decide), BitVec.extractLsb'_eq_self]
  · obtain ⟨j, rfl⟩ : ∃ j, i = 2 * j + 1 := ⟨i / 2, by omega⟩
    have hprev : words[2 * j]? = some words[2 * j] := List.getElem?_eq_getElem (by omega)
    have hcell : (2 * j + 1) / 2 = j := by omega
    rw [if_pos hodd, hcell, readCell_imageMemory (hget j _ _ hprev hw),
      BitVec.extractLsb'_append_eq_of_le (by decide), BitVec.extractLsb'_eq_self]

/-- The instruction words of an image's records. -/
def recordWords (records : List (Opcode × Fields)) : List InstrWord := records.map fun r => pack r.1 r.2

theorem recordWords_length (records : List (Opcode × Fields)) : (recordWords records).length = records.length :=
  List.length_map _

theorem recordWords_getElem? {records : List (Opcode × Fields)} {i : Nat} {r : Opcode × Fields}
    (h : records[i]? = some r) : (recordWords records)[i]? = some (pack r.1 r.2) := by
  rw [recordWords, List.getElem?_map, h, Option.map_some]

/-- An even number of records builds an image of their words in pairs. -/
theorem buildImage_of_even (p : Params) {records : List (Opcode × Fields)} (h : records.length % 2 = 0) :
    ∃ cells, buildImage p records = .ok cells ∧ Paired (recordWords records) cells := by
  rw [← recordWords_length] at h
  obtain ⟨cells, hcells, hpaired⟩ := pairCells_of_even h
  unfold recordWords at hcells
  exact ⟨cells, by rw [buildImage, hcells], hpaired⟩

theorem buildImage_of_odd (p : Params) {records : List (Opcode × Fields)} (h : records.length % 2 = 1) :
    buildImage p records = .error (.imageOdd records.length (.resetWith p)) := by
  rw [← recordWords_length] at h
  have hnone := pairCells_of_odd h
  unfold recordWords at hnone
  rw [buildImage, hnone]

/-- Settles O7: the records' words are paired into cells, which the load puts in their places. -/
theorem builtImageFetchesInOrder : Obligations.BuiltImageFetchesInOrder := by
  intro p records
  refine ⟨fun heven => ?_, buildImage_of_odd p⟩
  obtain ⟨cells, hcells, hpaired⟩ := buildImage_of_even p heven
  obtain ⟨hlen, hget⟩ := hpaired
  refine ⟨cells, hcells, hlen.trans (recordWords_length records), fun j lo hi hlo hhi => ?_,
    fun i r hr hi => imemRead_imageMemory ⟨hlen, hget⟩ (recordWords_getElem? hr) hi⟩
  rw [← append_eq_shiftLeft_or]
  exact hget j _ _ (recordWords_getElem? hlo) (recordWords_getElem? hhi)

/-! ### The guard under a well-formed table (R94, 43_regfile.md R172) -/

/-- Every entry of a well-formed table that writes a register maps its destination slot. -/
theorem rd_mapped_of_tableWellFormed {p : Params} (hp : tableWellFormed p = true) (k : Opcode)
    (hreg : (entryOf p k).wb.dest = .reg) : (entryOf p k).map.rd ≠ .off := by
  have hk := List.all_eq_true.mp hp k.toFin (List.mem_finRange _)
  simpa [hreg] using hk

/-- A register write reaches the guard exactly in the Writeback tick of an entry that writes a register through a slot that
is off. -/
theorem guardHit_iff {d : Decoded} {s : State} :
    guardHit d s = true ↔ s.stage = .writeback ∧ d.entry.wb.dest = .reg ∧ d.entry.map.rd = .off := by
  by_cases hwrite : s.stage = .writeback ∧ d.entry.wb.dest = .reg
  · obtain ⟨hst, hreg⟩ := hwrite
    simp [guardHit, regWrite, hst, hreg, rdIndex, mapIndex_eq_guard]
  · have hnone : regWrite d s = none := if_neg (by simpa using hwrite)
    simp only [guardHit, hnone, Option.any_none]
    tauto

/-- A fault of a tick is the fetch's, or that of the tick of the fetched word's control record. -/
theorem tick_fault {s : State} {r : Fault} (h : tick s = .fault r) :
    fetchWord s = .error r ∨ ∃ w, fetchWord s = .ok w ∧ tickOf (decodeWires s.params w) s = .fault r := by
  unfold tick at h
  split at h
  · cases h
  · split at h
    · next e he =>
      injection h with h
      exact .inl (h ▸ he)
    · next w hw => exact .inr ⟨w, hw, h⟩

theorem fetchWord_ne_guardWrite {s s' : State} {opc : Opcode} : fetchWord s ≠ .error (.guardWrite opc s') := by
  unfold fetchWord
  split <;> simp

/-- A tick that is fatal by a guard write is one whose register write reaches the guard. -/
theorem guardHit_of_tickOf_guardWrite {d : Decoded} {s s' : State} {opc : Opcode}
    (h : tickOf d s = .fault (.guardWrite opc s')) : guardHit d s = true := by
  obtain ⟨_, ⟨_, hr⟩ | ⟨e, _, hr⟩ | ⟨_, hr⟩ | ⟨_, _, hr⟩ | ⟨hguard, _⟩⟩ := tickOf_fault h
  · cases hr
  · cases e <;> cases hr
  · cases hr
  · cases hr
  · exact hguard

/-- Settles O35: a guard write needs an entry that R94 excludes. -/
theorem wellFormedTableNeverWritesGuard : Obligations.WellFormedTableNeverWritesGuard := by
  intro s s' opc hp h
  rcases tick_fault h with hfetch | ⟨w, _, htick⟩
  · exact fetchWord_ne_guardWrite hfetch
  · obtain ⟨_, hreg, hoff⟩ := guardHit_iff.mp (guardHit_of_tickOf_guardWrite htick)
    exact rd_mapped_of_tableWellFormed hp (opcodeField w) hreg hoff

end Sys2Proof.Machine
end

section
/-! SUPPORT. The proofs of the statements about the signal kernel's runs (40_signal_kernel.md): a run composes and ends once
the machine is stopped (O23), and a step is the run of the ticks left in its instruction cycle (O10). The ticks of a cycle
fetch anew each, and `efa_nextState` says why they fetch one word: the fetch address moves only at the edge of Writeback. -/

namespace Sys2Proof.Machine

/-! ### Runs (R120) -/

@[simp] theorem run_zero (s : State) : run 0 s = .next s := rfl

/-- While the machine is not stopped, a run is one tick and then the rest of the run. -/
theorem run_succ {s : State} (hrun : s.stop = false) (n : Nat) : run (n + 1) s = sessionRun n (tick s) := by
  rw [run, if_neg (by simp [hrun])]
  cases tick s <;> rfl

/-- No tick runs in a stopped machine. -/
theorem run_stopped {s : State} (hstop : s.stop = true) : ∀ n, run n s = .next s
  | 0 => rfl
  | _ + 1 => if_pos hstop

/-- A stopped machine's step answers the same state (log entry 9). -/
theorem step_stopped {s : State} (hstop : s.stop = true) : step s = .next s := if_pos hstop

/-- The runs of a machine in any condition compose once those of a machine that is not fatal do. -/
theorem sessionRun_add {m n : Nat} (hadd : ∀ s, run (m + n) s = sessionRun n (run m s))
    (o : Host.Outcome State Fault Refusal) : sessionRun (m + n) o = sessionRun n (sessionRun m o) := by
  cases o with
  | next s => exact hadd s
  | fault r => rfl
  | refused r => rfl

/-- A run of `m + n` ticks is a run of `m` and then of `n`. -/
theorem run_add (m n : Nat) (s : State) : run (m + n) s = sessionRun n (run m s) := by
  induction m generalizing s with
  | zero => rw [Nat.zero_add, run_zero, sessionRun]
  | succ m ih =>
    cases hstop : s.stop with
    | true => rw [run_stopped hstop, run_stopped hstop, sessionRun, run_stopped hstop]
    | false => rw [Nat.add_right_comm, run_succ hstop, run_succ hstop, sessionRun_add ih]

/-- Settles O23: the composition is `run_add`, and a stopped machine is `run_stopped`. -/
theorem runStopsAtHalt : Obligations.RunStopsAtHalt := by
  refine ⟨fun n s hrun => run_succ hrun n, run_add, fun n s hstop => ⟨run_stopped hstop n, step_stopped hstop⟩,
    fun m n s t h hstop => ?_⟩
  rw [run_add, h, sessionRun, run_stopped hstop]

/-! ### The ticks of an instruction cycle fetch one word (R131, R138) -/

/-- Before Writeback a tick leaves one tick fewer to the end of the cycle. -/
theorem ticksLeft_nextStage {st : Stage} (h : st ≠ .writeback) : ticksLeft (nextStage st) + 1 = ticksLeft st := by
  cases st with
  | writeback => exact absurd rfl h
  | _ => rfl

/-- The edge of a tick before Writeback keeps the effective fetch address: in Fetch the PC takes it, later both the PC and the
absent override stay. -/
theorem efa_nextState {d : Decoded} {v : Word} {s : State} (hst : s.stage ≠ .writeback)
    (hov : s.stage ≠ .fetch → s.redirect = none) : efa (nextState d v s) = efa s := by
  rw [efa_none _ ((nextState_redirect d v s).trans (pcWrite_none hst)), nextState_pc]
  by_cases hfetch : s.stage = .fetch
  · rw [if_pos (by simp [hfetch])]
  · rw [if_neg (by simp [hfetch]), efa_none s (hov hfetch)]

/-- The fetch reads the parameters, the instruction memory and the fetch address, and no more. -/
theorem fetchWord_congr {s t : State} {w : InstrWord} (hparams : t.params = s.params) (himem : t.imem = s.imem)
    (hefa : efa t = efa s) (hw : fetchWord s = .ok w) : fetchWord t = .ok w := by
  have hin := imemOut_eq_false_of_fetchWord hw
  rw [fetchWord_ok hin] at hw
  rw [fetchWord_ok (by rw [hparams, hefa, hin]), himem, hefa, hw]

/-- A running machine whose every tick up to Writeback fetches the word `w`: `w` is fetched now, and no override can move the
fetch address before the PC takes it (R138). -/
structure Fetches (w : InstrWord) (s : State) : Prop where
  running  : s.stop = false
  fetched  : fetchWord s = .ok w
  override : s.stage ≠ .fetch → s.redirect = none

/-- The edge of a tick before Writeback keeps the fetched word, whatever the control record and the ALU's value. -/
theorem Fetches.keptByEdge {w : InstrWord} {d : Decoded} {v : Word} {s : State} (hs : Fetches w s)
    (hst : s.stage ≠ .writeback) : Fetches w (nextState d v s) where
  running := by rw [nextState_stop, haltsNow_false hst]; exact hs.running
  fetched := fetchWord_congr (nextState_params d v s) (nextState_imem d v s) (efa_nextState hst hs.override) hs.fetched
  override := fun _ => (nextState_redirect d v s).trans (pcWrite_none hst)

/-- Up to the end of the cycle, ticks that fetch anew each are ticks with the control record of the word fetched first. -/
theorem Fetches.run_eq_runTicks {w : InstrWord} {n : Nat} {s : State} (hs : Fetches w s) (hn : n ≤ ticksLeft s.stage) :
    run n s = runTicks (decodeWires s.params w) n s := by
  induction n generalizing s with
  | zero => rfl
  | succ n ih =>
    rw [run_succ hs.running, tick_eq_tickOf hs.running hs.fetched]
    cases htick : tickOf (decodeWires s.params w) s with
    | fault r => rw [runTicks_succ_fault htick, sessionRun]
    | refused r => exact absurd htick tickOf_not_refused
    | next t =>
      rw [runTicks_succ_next htick, sessionRun]
      rcases tickOf_next htick with ⟨hstop, _⟩ | ⟨_, _, _, _, _, v, _, rfl⟩
      · simp [hs.running] at hstop
      · by_cases hst : s.stage = .writeback
        · have hlast : n = 0 := by simpa [hst, ticksLeft] using hn
          rw [hlast, run_zero, runTicks_zero]
        · have hleft := ticksLeft_nextStage hst
          rw [ih (hs.keptByEdge hst) (by rw [nextState_stage]; omega), nextState_params]

/-- The instruction of a fetched word is the cycle with the control record of the word's tick. -/
theorem exec_decode (w : InstrWord) (s : State) : exec (decode w) s = runCycle (decodeWires s.params w) s :=
  exec_numbered _ _ _

/-- Settles O10: a stopped machine and a fatal fetch by one equation each, a fetched word by `Fetches.run_eq_runTicks`. -/
theorem stepIsTicksToCycleEnd : Obligations.StepIsTicksToCycleEnd := by
  intro s hov
  cases hstop : s.stop with
  | true => rw [step_stopped hstop, run_stopped hstop]
  | false =>
    cases hfetch : fetchWord s with
    | error r =>
      obtain ⟨n, hn⟩ := Nat.exists_eq_add_one.mpr (ticksDone_add_ticksLeft s.stage).2
      have hstep : step s = .fault r := by simp [step, hstop, hfetch]
      have htick : tick s = .fault r := by simp [tick, hstop, hfetch]
      rw [hstep, hn, run_succ hstop, htick, sessionRun]
    | ok w =>
      have hs : Fetches w s := ⟨hstop, hfetch, hov⟩
      rw [step_eq_exec hstop hfetch, exec_decode, hs.run_eq_runTicks le_rfl, runCycle]

end Sys2Proof.Machine
end

section
/-! SUPPORT. The proofs of the statements about the fetch unit (41_fetch_unit.md): the PC across an instruction cycle (O15), the
PC and the registered PC write at the edge of one tick (O18), and the step by what the fetch gives (O8). For O15 the ticks of a
cycle are followed through the states before each of them, which gives the cycle of R249 (`runCycle_eq_cycleOutcome`); at its
end the PC and the override can be read off. -/

namespace Sys2Proof.Machine

/-! ### The wires of a tick in the states of an instruction cycle (47_instructions.md R249) -/

/-- Before the Execute tick the PC holds the instruction's address, so that the ALU's multiplexer gives R249's operands. -/
theorem aluOperand_beforeExecute (d : Decoded) (src : OpSrc) (s : State) :
    aluOperand d src (beforeExecute s) = cycleOperand d src s := by
  cases src <;> rfl

theorem alu_beforeExecute (d : Decoded) (s : State) :
    alu (beforeExecute s).params d.entry.alu.op (aluOperand d d.entry.alu.src0 (beforeExecute s))
      (aluOperand d d.entry.alu.src1 (beforeExecute s)) = cycleAlu d s := by
  rw [aluOperand_beforeExecute, aluOperand_beforeExecute]; rfl

/-- Before the Memory tick the ALU's register holds its result, so that the LSU's multiplexer gives R249's operands. -/
theorem memOperand_beforeMemory (d : Decoded) (r : Word) (src : MemSrc) (s : State) :
    memOperand d src (beforeMemory r s) = cycleMemSource d r src s := by
  cases src <;> rfl

theorem effAddr_beforeMemory (d : Decoded) (r : Word) (s : State) : effAddr d (beforeMemory r s) = cycleAddr d r s :=
  memOperand_beforeMemory d r _ s

theorem storeData_beforeMemory (d : Decoded) (r : Word) (s : State) : storeData d (beforeMemory r s) = cycleData d r s :=
  memOperand_beforeMemory d r _ s

/-- Before the Writeback tick the branch value follows the ALU's result (46_writeback.md R232). -/
theorem branchValue_beforeWriteback (d : Decoded) (r : Word) (s : State) :
    branchValue d (beforeWriteback d r s) = if r ≠ 0 then rsValue d s else pcPlus4 s := by
  simp only [ne_eq, ← bne_iff_ne]; rfl

/-- Before the Writeback tick the read output holds what the Memory tick read, so that the result is R249's. -/
theorem result_beforeWriteback (d : Decoded) (r : Word) (s : State) :
    result d (beforeWriteback d r s) = cycleResult d r s := by
  unfold result cycleResult
  cases d.entry.wb.src with
  | alu => rfl
  | lsu => rfl
  | brCond => exact branchValue_beforeWriteback d r s

/-- The writeback unit's choice of the next address (R234, R235). -/
theorem nextPc_eq (d : Decoded) (s : State) : nextPc d s = if d.entry.wb.dest = .pc then result d s else pcPlus4 s := by
  simp [nextPc]

theorem nextPc_beforeWriteback (d : Decoded) (r : Word) (s : State) :
    nextPc d (beforeWriteback d r s) = cycleNext d r s := by
  rw [nextPc_eq, result_beforeWriteback]; rfl

/-! ### The ticks of an instruction cycle, each from the state before it to the next (70_reset_and_hazards.md R341) -/

/-- The committed state before the Decode tick (R341). -/
def beforeDecode (s : State) : State :=
  { s with pc := efa s, redirect := none, stage := .decode, memRdata := memRead s.dmem Config.neutralAddr,
           clock := s.clock + 1 }

section cycle
variable {s : State} (d : Decoded) (hrun : s.stop = false) (hin : imemOut s.params (efa s) = false)
include hrun hin

theorem tickOf_atFetch (hst : s.stage = .fetch) : tickOf d s = .next (beforeDecode s) :=
  tickOf_fetch hrun hin hst

theorem tickOf_beforeDecode : tickOf d (beforeDecode s) = .next (beforeExecute s) :=
  tickOf_decode (s := beforeDecode s) hrun hin rfl

theorem tickOf_beforeExecute_error {e : AluFault} (he : cycleAlu d s = .error e) :
    tickOf d (beforeExecute s) = .fault (aluFatal d e (beforeExecute s)) := by
  rw [tickOf_execute (s := beforeExecute s) hrun hin rfl, alu_beforeExecute, he]

theorem tickOf_beforeExecute_ok {r : Word} (hr : cycleAlu d s = .ok r) :
    tickOf d (beforeExecute s) = .next (beforeMemory r s) := by
  rw [tickOf_execute (s := beforeExecute s) hrun hin rfl, alu_beforeExecute, hr]
  rfl

theorem tickOf_beforeMemory (r : Word) :
    tickOf d (beforeMemory r s) =
      if d.entry.mem.op ≠ .none ∧ dmemOut s.params (cycleAddr d r s) then
        .fault (.dmemRange (cycleAddr d r s) (beforeMemory r s))
      else .next (beforeWriteback d r s) := by
  rw [tickOf_memory (s := beforeMemory r s) hrun hin rfl, effAddr_beforeMemory, storeData_beforeMemory]
  rfl

theorem tickOf_beforeWriteback (r : Word) :
    tickOf d (beforeWriteback d r s) =
      if d.entry.wb.dest = .reg ∧ rdIndex s.params d = guardIndex then .fault (.guardWrite d.opc (beforeWriteback d r s))
      else .next (cycleEnd d r s) := by
  rw [tickOf_writeback (s := beforeWriteback d r s) hrun hin rfl, nextPc_beforeWriteback, result_beforeWriteback]
  simp only [cycleEnd, hrun, Bool.false_or]
  rfl

end cycle

/-- A fetch address out of range is fatal in any tick, before every other check (R118, R132). -/
theorem tickOf_imemRange {d : Decoded} {s : State} (hrun : s.stop = false) (hout : imemOut s.params (efa s) = true) :
    tickOf d s = .fault (.imemRange (efa s) s) := by
  simp [tickOf, hrun, hout]

/-- The five ticks of any control record, entered at the Fetch stage, are the cycle that R249 writes. -/
theorem runCycle_eq_cycleOutcome (d : Decoded) {s : State} (hrun : s.stop = false) (hst : s.stage = .fetch) :
    runCycle d s = cycleOutcome d s := by
  rw [runCycle, hst, ticksLeft, cycleOutcome]
  cases hin : imemOut s.params (efa s) with
  | true => exact runTicks_succ_fault (tickOf_imemRange hrun hin)
  | false =>
    rw [runTicks_succ_next (tickOf_atFetch d hrun hin hst), runTicks_succ_next (tickOf_beforeDecode d hrun hin)]
    cases halu : cycleAlu d s with
    | error e =>
      rw [runTicks_succ_fault (tickOf_beforeExecute_error d hrun hin halu)]
      cases e <;> simp [aluFatal, aluOperand_beforeExecute]
    | ok r =>
      rw [runTicks_succ_next (tickOf_beforeExecute_ok d hrun hin halu)]
      have hmemory := tickOf_beforeMemory d hrun hin r
      have hwriteback := tickOf_beforeWriteback d hrun hin r
      by_cases hrange : d.entry.mem.op ≠ .none ∧ dmemOut s.params (cycleAddr d r s)
      · rw [if_pos hrange] at hmemory
        simp [runTicks_succ_fault hmemory, hrange]
      · rw [if_neg hrange] at hmemory
        rw [runTicks_succ_next hmemory]
        by_cases hguard : d.entry.wb.dest = .reg ∧ rdIndex s.params d = guardIndex
        · rw [if_pos hguard] at hwriteback
          simp [runTicks_succ_fault hwriteback, hrange, hguard]
        · rw [if_neg hguard] at hwriteback
          simp [runTicks_succ_next hwriteback, hrange, hguard]

/-- A cycle that completes ends in `cycleEnd`, with the ALU's value. -/
theorem cycleOutcome_next {d : Decoded} {s t : State} (h : cycleOutcome d s = .next t) :
    ∃ r, cycleAlu d s = .ok r ∧ t = cycleEnd d r s := by
  unfold cycleOutcome at h
  split at h
  · cases h
  · split at h
    · cases h
    · cases h
    · next r hr =>
      split at h
      · cases h
      · split at h
        · cases h
        · injection h with h
          exact ⟨r, hr, h.symm⟩

/-- A step that completes, from a ready state, ends the cycle of the fetched word. -/
theorem step_eq_cycleEnd {s t : State} {w : InstrWord} (hs : s.Ready) (hw : fetchWord s = .ok w) (h : step s = .next t) :
    ∃ r, cycleAlu (decodeWires s.params w) s = .ok r ∧ t = cycleEnd (decodeWires s.params w) r s := by
  rw [step_eq_exec hs.running hw, exec_decode, runCycle_eq_cycleOutcome _ hs.running hs.at_fetch] at h
  exact cycleOutcome_next h

/-- Settles O15: at the end of the cycle the override is `cycleNext`, the two cases of R235. -/
theorem pcAdvancesOncePerInstruction : Obligations.PcAdvancesOncePerInstruction := by
  intro s t w hs hw h
  obtain ⟨r, _, rfl⟩ := step_eq_cycleEnd hs hw h
  exact ⟨rfl, fun hdest => if_neg hdest, fun hdest => if_pos hdest⟩

/-! ### The PC and the override at the edge of one tick (R135, R136, R234) -/

/-- The PC write of a Writeback tick is present, and is the chosen next address (R234). -/
theorem pcWrite_writeback {d : Decoded} {s : State} (h : s.stage = .writeback) : pcWrite d s = some (nextPc d s) := by
  simp [pcWrite, h]

/-- Settles O18: the fields `pc` and `redirect` of the edge, by the enables of the Fetch and of the Writeback stage. -/
theorem pcAndRedirectCommit : Obligations.PcAndRedirectCommit := by
  intro s t w hrun hw h
  obtain ⟨v, rfl⟩ := tick_eq_nextState hrun hw h
  rw [nextState_pc, nextState_redirect]
  refine ⟨fun hst => if_pos (by simp [hst]), fun hst => if_neg (by simp [hst]), fun hst => pcWrite_none hst, fun hst => ?_⟩
  rw [pcWrite_writeback hst, nextPc_eq]
  rfl

/-! ### The step by the fetch (R132, R133) -/

/-- A fetch that is fatal is the step's fatal condition. -/
theorem step_fetch_error {s : State} {r : Fault} (hrun : s.stop = false) (h : fetchWord s = .error r) :
    step s = .fault r := by
  simp [step, hrun, h]

/-- Settles O8: a fetched word by `step_eq_exec`, an address out of range by the fetch's fatal condition. -/
theorem stepRunsDecodedInstruction : Obligations.StepRunsDecodedInstruction :=
  fun _ hrun => ⟨fun _ hw => step_eq_exec hrun hw, fun hout => step_fetch_error hrun (fetchWord_error hout)⟩

end Sys2Proof.Machine
end

section
/-! SUPPORT. The proof of the statement about the stage and its enables (42_decode_fsm.md, O17). -/

namespace Sys2Proof.Machine

/-- A stage's enable is true in that stage and in no other (42_decode_fsm.md R152). -/
theorem enabled_iff (st : Stage) (s : State) : enabled st s = true ↔ s.stage = st := by
  rw [enabled_eq, beq_iff_eq]

/-- The enable that is true is the current stage's, and it is the only one (R152). -/
theorem enabled_unique (s : State) : ∃ st, enabled st s = true ∧ ∀ u, enabled u s = true → u = st :=
  ⟨s.stage, (enabled_iff _ s).mpr rfl, fun u hu => ((enabled_iff u s).mp hu).symm⟩

/-- A running machine's completed tick commits an edge, whatever the fetched word and the ALU's value. -/
theorem exists_nextState_of_tick {s t : State} (hrun : s.stop = false) (h : tick s = .next t) :
    ∃ d v, t = nextState d v s := by
  rcases tick_next h with ⟨hstop, _⟩ | ⟨_, w, hw, _⟩
  · simp [hrun] at hstop
  · exact ⟨_, tick_eq_nextState hrun hw h⟩

/-- Settles O17: every edge writes the next stage and counts the clock, under any control record. -/
theorem tickAdvancesStageAndClock : Obligations.TickAdvancesStageAndClock := by
  refine ⟨enabled_iff, enabled_unique, ⟨rfl, rfl, rfl, rfl, rfl⟩, fun s t hrun h => ?_⟩
  obtain ⟨d, v, rfl⟩ := exists_nextState_of_tick hrun h
  exact ⟨nextState_stage d v s, nextState_clock d v s⟩

end Sys2Proof.Machine
end

section
/-! SUPPORT. The proof of the statement about the register file's write port (43_regfile.md, O19): the write is driven only
in the Writeback tick of an entry that writes a register, and its commit changes the addressed entry alone. -/

namespace Sys2Proof.Machine

/-- The register write is driven exactly in the Writeback tick of an entry whose destination is the register file
(46_writeback.md R233). -/
theorem regWrite_eq (d : Decoded) (s : State) :
    regWrite d s =
      if s.stage = .writeback ∧ d.entry.wb.dest = .reg then some (rdIndex s.params d, result d s) else none := by
  simp [regWrite]

/-- Every entry of the register file after the edge, whatever the control record and the ALU's value (43_regfile.md R171). -/
theorem readReg_nextState (d : Decoded) (v : Word) (s : State) (j : Fin numRegs) :
    readReg (nextState d v s) j =
      if s.stage = .writeback ∧ d.entry.wb.dest = .reg ∧ j = rdIndex s.params d then result d s else readReg s j := by
  rw [readReg, nextState_x, regWrite_eq]
  by_cases hwrite : s.stage = .writeback ∧ d.entry.wb.dest = .reg
  · rw [if_pos hwrite, applyRegWrite_some, writeReg_get]
    simp only [hwrite, true_and, readReg]
  · rw [if_neg hwrite, applyRegWrite_none, if_neg fun ⟨hst, hreg, _⟩ => hwrite ⟨hst, hreg⟩, readReg]

/-- Settles O19: `readReg_nextState` at the fetched word's control record. -/
theorem registerFileWritesOneEntry : Obligations.RegisterFileWritesOneEntry := by
  intro s t w hrun hw h j
  obtain ⟨v, rfl⟩ := tick_eq_nextState hrun hw h
  exact readReg_nextState (decodeWires s.params w) v s j

end Sys2Proof.Machine
end

section
/-! SUPPORT. The proofs of the statements about the ALU's register and its integer operations (44_alu.md): the register takes
the result at the Execute edge and holds elsewhere (O20), and what each integer operation gives (O36 to O40). -/

namespace Sys2Proof.Machine

/-! ### The ALU's register (R180) -/

/-- A completed tick of a running machine commits the value the ALU's register was to take. -/
theorem aluNext_eq_aluOut {s t : State} {w : InstrWord} (hrun : s.stop = false) (hw : fetchWord s = .ok w)
    (h : tick s = .next t) : aluNext (decodeWires s.params w) s = .ok t.aluOut := by
  rw [tick_eq_tickOf hrun hw] at h
  rcases tickOf_next h with ⟨hstop, _⟩ | ⟨_, _, _, _, _, v, hv, rfl⟩
  · simp [hrun] at hstop
  · rw [hv, nextState_aluOut]

theorem aluNext_execute {d : Decoded} {s : State} (h : s.stage = .execute) :
    aluNext d s = alu s.params d.entry.alu.op (aluOperand d d.entry.alu.src0 s) (aluOperand d d.entry.alu.src1 s) := by
  simp [aluNext, h]

/-- The ALU's value can fail in the Execute tick only: in every other it is the value held. -/
theorem stage_of_aluNext_error {d : Decoded} {s : State} {e : AluFault} (h : aluNext d s = .error e) :
    s.stage = .execute := by
  by_contra hst
  rw [aluNext_hold hst] at h
  cases h

/-- Codes 3 and 4 are the two faults of the ALU (60_exceptions.md R302), so the tick's ALU value failed. -/
theorem stage_of_tickOf_aluFault {d : Decoded} {s : State} {r : Fault} (h : tickOf d s = .fault r)
    (hcode : faultCode r = 3 ∨ faultCode r = 4) : s.stage = .execute := by
  obtain ⟨_, ⟨_, rfl⟩ | ⟨e, he, _⟩ | ⟨_, rfl⟩ | ⟨_, _, rfl⟩ | ⟨_, rfl⟩⟩ := tickOf_fault h
  case inr.inl => exact stage_of_aluNext_error he
  all_goals simp [faultCode] at hcode

/-- An ALU fault is never the fetch's, so the machine's tick raises it in the Execute stage only. -/
theorem stage_of_tick_aluFault (s : State) (r : Fault) (h : tick s = .fault r)
    (hcode : faultCode r = 3 ∨ faultCode r = 4) : s.stage = .execute := by
  rcases tick_fault h with hfetch | ⟨w, _, htick⟩
  · unfold fetchWord at hfetch
    split at hfetch
    · injection hfetch with hr
      simp [← hr, faultCode] at hcode
    · cases hfetch
  · exact stage_of_tickOf_aluFault htick hcode

/-- Settles O20: the committed value is `aluNext`, which is the operation in the Execute tick and the value held elsewhere. -/
theorem aluOutputHoldsOutsideExecute : Obligations.AluOutputHoldsOutsideExecute := by
  refine ⟨fun s t w hrun hw h => ⟨fun hst => ?_, fun hst => ?_⟩, stage_of_tick_aluFault⟩
  · exact (aluNext_execute hst).symm.trans (aluNext_eq_aluOut hrun hw h)
  · have hheld : Except.ok s.aluOut = Except.ok (ε := AluFault) t.aluOut :=
      (aluNext_hold hst).symm.trans (aluNext_eq_aluOut hrun hw h)
    injection hheld with hheld
    exact hheld.symm

/-! ### Product and quotient (R185, R186) -/

/-- Settles O36: the low 64 bits of a product depend on the low 64 bits of its factors only. -/
theorem signedProductIsUnsignedProduct : Obligations.SignedProductIsUnsignedProduct := by
  intro p a b
  have hlow : BitVec.ofInt 64 (a.toInt * b.toInt) = a * b := by rw [BitVec.ofInt_mul, BitVec.ofInt_toInt, BitVec.ofInt_toInt]
  exact ⟨alu_mul p a b, (alu_mul p a b).trans (congrArg _ hlow)⟩

/-- The one quotient that does not fit in 64 bits is that of `-2^63 / -1`. -/
theorem toInt_ofInt_tdiv {a b : Word} (h : ¬(a = intMin ∧ b = BitVec.allOnes 64)) :
    (BitVec.ofInt 64 (a.toInt.tdiv b.toInt)).toInt = a.toInt.tdiv b.toInt := by
  rw [BitVec.toInt_ofInt, ← BitVec.toInt_sdiv]
  refine BitVec.toInt_sdiv_of_ne_or_ne a b ?_
  by_cases ha : a = intMin
  · exact .inr fun hb => h ⟨ha, hb⟩
  · exact .inl ha

/-- The remainder of the truncating division is smaller than the divisor and has the dividend's sign. -/
theorem sub_tdiv_mul_bounds (x : Int) {y : Int} (hy : y ≠ 0) :
    (x - x.tdiv y * y).natAbs < y.natAbs ∧ (0 ≤ x → 0 ≤ x - x.tdiv y * y) ∧ (x ≤ 0 → x - x.tdiv y * y ≤ 0) := by
  have hrem : x - x.tdiv y * y = x.tmod y := by rw [Int.tmod_def, Int.mul_comm]
  rw [hrem]
  refine ⟨?_, fun hx => Int.tmod_nonneg y hx, fun hx => ?_⟩
  · rw [Int.natAbs_tmod]
    exact Nat.mod_lt _ (Int.natAbs_pos.mpr hy)
  · have hneg := Int.tmod_nonneg (a := -x) y (by omega)
    rw [Int.neg_tmod] at hneg
    omega

/-- Settles O37, by the three operand cases of `aluDiv_cases`. -/
theorem divisionTruncatesTowardZero : Obligations.DivisionTruncatesTowardZero := by
  refine ⟨fun p a b => ?_, stage_of_tick_aluFault⟩
  rw [alu_div]
  rcases aluDiv_cases a b with ⟨hb, hdiv⟩ | ⟨hb, ha, hones, hdiv⟩ | ⟨hb, hpair, hdiv⟩
  · exact ⟨fun _ => hdiv, fun _ hones => absurd (hb.symm.trans hones) (by decide), fun hne => absurd hb hne⟩
  · exact ⟨fun h0 => absurd h0 hb, fun _ _ => hdiv, fun _ hpair => absurd ⟨ha, hones⟩ hpair⟩
  · refine ⟨fun h0 => absurd h0 hb, fun ha hones => absurd ⟨ha, hones⟩ hpair, fun _ _ => ⟨_, hdiv, ?_⟩⟩
    rw [toInt_ofInt_tdiv hpair]
    exact sub_tdiv_mul_bounds _ fun h0 => hb (BitVec.toInt_inj.mp h0)

/-! ### Shifts, compares and SETHI (R195 to R199) -/

theorem aluShift_of_lt {b : Word} (h : b.toNat < 64) (a : Word) :
    aluShift .shl a b = a <<< b.toNat ∧ aluShift .shr a b = a >>> b.toNat := by
  simp [aluShift, h]

theorem aluShift_of_ge {b : Word} (h : 64 ≤ b.toNat) (op : ShiftOp) (a : Word) :
    aluShift op a b = Config.shiftOor op a b := if_neg (Nat.not_lt.mpr h)

/-- Settles O38: below 64 by the bits of the two shifts, from 64 on by `aluShift_of_ge`. -/
theorem shiftsAreLogical : Obligations.ShiftsAreLogical := by
  intro p a b
  rw [alu_shl, alu_shr]
  refine ⟨fun h => ?_, fun h => by simp only [aluShift_of_ge h, and_self]⟩
  obtain ⟨hshl, hshr⟩ := aluShift_of_lt h a
  refine ⟨⟨_, rfl, fun i hi => ?_⟩, ⟨_, rfl, fun i _ => ?_⟩⟩
  · rw [hshl, BitVec.getLsbD_shiftLeft]
    simp only [hi, decide_true, Bool.true_and, ← decide_not, Nat.not_lt]
  · rw [hshr, BitVec.getLsbD_ushiftRight, Nat.add_comm]

/-- Settles O39: the compared condition is true in the first and the third case, false in the others. -/
theorem comparesGiveOneOrZero : Obligations.ComparesGiveOneOrZero := by
  intro p a b
  rw [alu_ne, alu_gt]
  refine ⟨fun h => ?_, fun h => ?_, fun h => ?_, fun h => ?_⟩
  · rw [bne_iff_ne.mpr h, compareResult_true]
  · rw [h, bne_self_eq_false, compareResult_false]
  · rw [decide_eq_true h, compareResult_true]
  · rw [decide_eq_false (Int.not_lt.mpr h), compareResult_false]

/-- The mask of the lower 52 bits. -/
theorem getLsbD_lowMask (i : Nat) : (0x000FFFFFFFFFFFFF#64).getLsbD i = decide (i < 52) :=
  Nat.testBit_two_pow_sub_one 52 i

/-- The mask of the low 12 bits. -/
theorem getLsbD_immMask (i : Nat) : (0xFFF#64).getLsbD i = decide (i < 12) :=
  Nat.testBit_two_pow_sub_one 12 i

/-- Every bit of `SETHI`'s result. -/
theorem getLsbD_aluSetHi (a b : Word) {i : Nat} (hi : i < 64) :
    (aluSetHi a b).getLsbD i = if i < 52 then a.getLsbD i else b.getLsbD (i - 52) := by
  rw [aluSetHi, BitVec.getLsbD_or, BitVec.getLsbD_and, BitVec.getLsbD_shiftLeft, BitVec.getLsbD_and, getLsbD_lowMask,
    getLsbD_immMask]
  by_cases hlow : i < 52
  · simp [hlow]
  · simp [hlow, hi, show i - 52 < 12 by omega]

/-- Settles O40: `getLsbD_aluSetHi` below bit 52 and from there on. -/
theorem setHighBitsReplacesTwelveBits : Obligations.SetHighBitsReplacesTwelveBits := by
  intro p a b
  refine ⟨_, alu_sethi p a b, fun i hi => ?_, fun i hi => ?_⟩
  · rw [getLsbD_aluSetHi a b (by omega), if_pos hi]
  · rw [getLsbD_aluSetHi a b (by omega), if_neg (by omega), Nat.add_sub_cancel_left]

end Sys2Proof.Machine
end

section
/-! SUPPORT. The laws of the binary64 encoding and of the rounding function (44_alu.md R201; the encoding is IEEE-754's, log
entry 18): the fields of a pattern as numbers, the value of the magnitude bits `k * 2^52 + m`, and that `roundBits` picks the
nearest of the finite values, the even one of two, and the infinity exactly from the overflow threshold on. -/

namespace Sys2Proof.Machine

/-! ### The fields of a pattern as numbers -/

theorem f64Sign_eq (v : Word) : f64Sign v = decide (2 ^ 63 ≤ v.toNat) :=
  (BitVec.msb_eq_getLsbD_last v).symm.trans (BitVec.msb_eq_decide v)

theorem f64Exp_eq (v : Word) : f64Exp v = v.toNat / 2 ^ 52 % 2 ^ 11 := by
  rw [f64Exp, BitVec.extractLsb'_toNat, Nat.shiftRight_eq_div_pow]

theorem f64Frac_eq (v : Word) : f64Frac v = v.toNat % 2 ^ 52 := by
  rw [f64Frac, BitVec.extractLsb'_toNat, Nat.shiftRight_zero]

theorem f64Frac_lt (v : Word) : f64Frac v < 2 ^ 52 := BitVec.isLt _

/-- A pattern is its three fields. -/
theorem toNat_eq_fields (v : Word) :
    v.toNat = (if f64Sign v then 2 ^ 63 else 0) + f64Exp v * 2 ^ 52 + f64Frac v := by
  have hlt := v.isLt
  rw [f64Sign_eq, f64Exp_eq, f64Frac_eq]
  by_cases h : 2 ^ 63 ≤ v.toNat
  · simp only [h, decide_true, if_true]
    omega
  · simp only [h, decide_false, Bool.false_eq_true, if_false]
    omega

/-! ### The sign bit inverted -/

theorem f64Sign_f64Neg (v : Word) : f64Sign (f64Neg v) = !f64Sign v := by
  simp [f64Sign, f64Neg]

theorem f64Exp_f64Neg (v : Word) : f64Exp (f64Neg v) = f64Exp v := by
  simp [f64Exp, f64Neg, BitVec.extractLsb'_xor]

theorem f64Frac_f64Neg (v : Word) : f64Frac (f64Neg v) = f64Frac v := by
  simp [f64Frac, f64Neg, BitVec.extractLsb'_xor]

theorem f64Mag_f64Neg (v : Word) : f64Mag (f64Neg v) = f64Mag v := by
  rw [f64Mag, f64Mag, f64Exp_f64Neg, f64Frac_f64Neg]

theorem f64Units_f64Neg (v : Word) : f64Units (f64Neg v) = -f64Units v := by
  rw [f64Units, f64Units, f64Sign_f64Neg, f64Mag_f64Neg]
  cases f64Sign v <;> simp

theorem f64Finite_f64Neg {v : Word} (h : f64Finite v) : f64Finite (f64Neg v) := by
  rwa [f64Finite, f64Exp_f64Neg]

/-! ### The classes of a pattern -/

theorem f64IsNan_of_finite {v : Word} (h : f64Finite v) : f64IsNan v = false := by
  simp [f64IsNan, beq_eq_false_iff_ne.mpr h]

theorem f64IsInf_of_finite {v : Word} (h : f64Finite v) : f64IsInf v = false := by
  simp [f64IsInf, beq_eq_false_iff_ne.mpr h]

theorem f64IsInf_iff (v : Word) : f64IsInf v = true ↔ f64Exp v = 2047 ∧ f64Frac v = 0 := by
  simp [f64IsInf]

theorem f64IsNan_iff (v : Word) : f64IsNan v = true ↔ f64Exp v = 2047 ∧ f64Frac v ≠ 0 := by
  simp [f64IsNan]

theorem f64IsNan_of_isInf {v : Word} (h : f64IsInf v = true) : f64IsNan v = false := by
  simp [f64IsNan, ((f64IsInf_iff v).mp h).2]

/-- Each sign has one infinity. -/
theorem eq_signedInf {v : Word} (h : f64IsInf v = true) : v = signedInf (f64Sign v) := by
  obtain ⟨hexp, hfrac⟩ := (f64IsInf_iff v).mp h
  have hfields := toNat_eq_fields v
  rw [hexp, hfrac] at hfields
  apply BitVec.eq_of_toNat_eq
  cases hs : f64Sign v <;> simp [hfields, hs]

theorem f64IsInf_f64Neg (v : Word) : f64IsInf (f64Neg v) = f64IsInf v := by
  rw [f64IsInf, f64IsInf, f64Exp_f64Neg, f64Frac_f64Neg]

/-! ### The value of a pattern -/

theorem natAbs_f64Units (v : Word) : (f64Units v).natAbs = f64Mag v := by
  unfold f64Units
  split <;> simp

theorem f64Mag_eq_zero_iff (v : Word) : f64Mag v = 0 ↔ f64Units v = 0 := by
  rw [← natAbs_f64Units, Int.natAbs_eq_zero]

/-- The sign bit of a value that is not zero is the value's sign. -/
theorem decide_f64Units_neg {v : Word} (h : f64Units v ≠ 0) : decide (f64Units v < 0) = f64Sign v := by
  have hpos : f64Mag v ≠ 0 := fun h0 => h ((f64Mag_eq_zero_iff v).mp h0)
  unfold f64Units
  cases f64Sign v
  · simp
  · simp [Nat.pos_of_ne_zero hpos]

/-- A value is a multiple of `2^k` units, or lies below the binades that drop `k` bits or more. -/
theorem two_pow_dvd_f64Units_or_lt (v : Word) (k : Nat) :
    (2 ^ k : Int) ∣ f64Units v ∨ k ≠ 0 ∧ (f64Units v).natAbs < 2 ^ (52 + k) := by
  rw [natAbs_f64Units, ← Int.natAbs_dvd_natAbs, natAbs_f64Units, Int.natAbs_pow]
  have hfrac := f64Frac_lt v
  rcases Nat.eq_zero_or_pos k with rfl | hk
  · exact .inl (one_dvd _)
  unfold f64Mag
  split
  · exact .inr ⟨hk.ne', hfrac.trans_le (Nat.pow_le_pow_right (by decide) (by omega))⟩
  · by_cases hexp : k ≤ f64Exp v - 1
    · exact .inl (Dvd.dvd.mul_left (pow_dvd_pow 2 hexp) _)
    · refine .inr ⟨hk.ne', ?_⟩
      calc (2 ^ 52 + f64Frac v) * 2 ^ (f64Exp v - 1)
          < 2 ^ 53 * 2 ^ (f64Exp v - 1) := Nat.mul_lt_mul_of_pos_right (by omega) (by positivity)
        _ = 2 ^ (53 + (f64Exp v - 1)) := (pow_add 2 _ _).symm
        _ ≤ 2 ^ (52 + k) := Nat.pow_le_pow_right (by decide) (by omega)

/-! ### A sign and magnitude bits as a pattern -/

theorem packSign_infBits (s : Bool) : packSign s infBits = signedInf s := by cases s <;> decide

theorem packSign_zero (s : Bool) : packSign s 0 = signedZero s := by cases s <;> decide

section packSign
variable {bits : Nat} (s : Bool) (h : bits ≤ infBits)
include h

theorem toNat_packSign : (packSign s bits).toNat = bits + if s then 2 ^ 63 else 0 := by
  unfold infBits at h
  refine Nat.mod_eq_of_lt ?_
  split <;> omega

theorem f64Sign_packSign : f64Sign (packSign s bits) = s := by
  rw [f64Sign_eq, toNat_packSign s h]
  unfold infBits at h
  cases s
  · simp
    omega
  · simp

theorem f64Exp_packSign : f64Exp (packSign s bits) = bits / 2 ^ 52 := by
  rw [f64Exp_eq, toNat_packSign s h]
  unfold infBits at h
  split <;> omega

theorem f64Frac_packSign : f64Frac (packSign s bits) = bits % 2 ^ 52 := by
  rw [f64Frac_eq, toNat_packSign s h]
  split <;> omega

theorem f64Units_packSign :
    f64Units (packSign s bits) = if s then -(f64Mag (packSign s bits) : Int) else f64Mag (packSign s bits) := by
  rw [f64Units, f64Sign_packSign s h]

end packSign

/-- The magnitude bits `k * 2^52 + m` are `m * 2^k` units: a subnormal, a normal value, or, for `m = 2^53`, the first value
of the next binade. -/
theorem f64Mag_packSign (s : Bool) {k m : Nat} (h : k * 2 ^ 52 + m ≤ infBits) (hm : m ≤ 2 ^ 53) (hk : k = 0 ∨ 2 ^ 52 ≤ m) :
    f64Mag (packSign s (k * 2 ^ 52 + m)) = m * 2 ^ k := by
  rw [f64Mag, f64Exp_packSign s h, f64Frac_packSign s h]
  rcases Nat.lt_or_ge m (2 ^ 52) with hsub | hnormal
  · obtain rfl : k = 0 := by omega
    rw [if_pos (by omega), show (0 * 2 ^ 52 + m) % 2 ^ 52 = m by omega, pow_zero, mul_one]
  rw [if_neg (by omega)]
  rcases Nat.lt_or_eq_of_le hm with hlt | rfl
  · rw [show 2 ^ 52 + (k * 2 ^ 52 + m) % 2 ^ 52 = m by omega, show (k * 2 ^ 52 + m) / 2 ^ 52 - 1 = k by omega]
  · rw [show 2 ^ 52 + (k * 2 ^ 52 + 2 ^ 53) % 2 ^ 52 = 2 ^ 52 by omega,
      show (k * 2 ^ 52 + 2 ^ 53) / 2 ^ 52 - 1 = k + 1 by omega, pow_succ' 2 k, ← mul_assoc]
    rfl

/-! ### Rounding a ratio to a natural number -/

theorem roundDiv_bounds (n d : Nat) : n / d ≤ roundDiv n d ∧ roundDiv n d ≤ n / d + 1 := by
  unfold roundDiv
  dsimp only
  split
  · omega
  · split <;> omega

/-- The rounded ratio is at most one half away, and where it is one half away it is even. -/
theorem roundDiv_half (n : Nat) {d : Nat} (hd : 0 < d) :
    2 * ((roundDiv n d * d : Nat) - n : Int).natAbs ≤ d ∧
    (2 * ((roundDiv n d * d : Nat) - n : Int).natAbs = d → roundDiv n d % 2 = 0) := by
  have hdiv := Nat.div_add_mod' n d
  have hmod := Nat.mod_lt n hd
  have hnext : (n / d + 1) * d = n / d * d + d := Nat.add_one_mul _ _
  unfold roundDiv
  dsimp only
  split
  · omega
  · split
    · rw [hnext]
      omega
    · rcases Nat.mod_two_eq_zero_or_one (n / d) with heven | hodd
      · rw [heven, Nat.add_zero]
        omega
      · rw [hodd, hnext]
        omega

/-- No multiple of `d` is nearer to `n` than the rounded ratio's, and where another is as near the rounded ratio is even. -/
theorem roundDiv_nearest (n : Nat) {d : Nat} (hd : 0 < d) (j : Int) :
    ((roundDiv n d * d : Nat) - n : Int).natAbs ≤ (j * d - n).natAbs ∧
    (((roundDiv n d * d : Nat) - n : Int).natAbs = (j * d - n).natAbs → j ≠ roundDiv n d → roundDiv n d % 2 = 0) := by
  obtain ⟨hhalf, heven⟩ := roundDiv_half n hd
  by_cases hj : j = roundDiv n d
  · exact ⟨by rw [hj, Nat.cast_mul], fun _ hne => absurd hj hne⟩
  have happart : j * d + d ≤ (roundDiv n d * d : Nat) ∨ (roundDiv n d * d : Nat) + d ≤ j * (d : Int) := by
    push_cast
    rcases Int.lt_or_gt_of_ne hj with hlt | hgt
    · exact .inl (by nlinarith)
    · exact .inr (by nlinarith)
  exact ⟨by omega, fun htie _ => heven (by omega)⟩

/-! ### The binade of a ratio -/

theorem two_pow_add_mul (i j d : Nat) : 2 ^ (i + j) * d = 2 ^ i * (d * 2 ^ j) := by
  rw [pow_add, mul_assoc, mul_comm d]

theorem lt_two_pow_dropBits (n : Nat) {d : Nat} (hd : 0 < d) : n < 2 ^ (53 + dropBits n d) * d := by
  rw [← Nat.div_lt_iff_lt_mul hd]
  exact Nat.lt_log2_self.trans_le (Nat.pow_le_pow_right (by decide) (by unfold dropBits; omega))

theorem two_pow_dropBits_le {n d : Nat} (hk : dropBits n d ≠ 0) : 2 ^ (52 + dropBits n d) * d ≤ n := by
  have hlog : 52 + dropBits n d = (n / d).log2 := by unfold dropBits at *; omega
  have hne : n / d ≠ 0 := fun h0 => hk (by rw [dropBits, h0]; rfl)
  rw [hlog]
  exact (Nat.mul_le_mul_right d (Nat.log2_self_le hne)).trans (Nat.div_mul_le_self n d)

/-- The significand that `n / d` units are rounded to. -/
def roundSig (n d : Nat) : Nat := roundDiv n (d * 2 ^ dropBits n d)

theorem roundBits_eq (n d : Nat) : roundBits n d = min (dropBits n d * 2 ^ 52 + roundSig n d) infBits := rfl

theorem roundBits_le (n d : Nat) : roundBits n d ≤ infBits := Nat.min_le_right _ _

theorem roundSig_le (n : Nat) {d : Nat} (hd : 0 < d) : roundSig n d ≤ 2 ^ 53 := by
  have hlt : n / (d * 2 ^ dropBits n d) < 2 ^ 53 := by
    rw [Nat.div_lt_iff_lt_mul (by positivity)]
    calc n < 2 ^ (53 + dropBits n d) * d := lt_two_pow_dropBits n hd
      _ = 2 ^ 53 * (d * 2 ^ dropBits n d) := two_pow_add_mul _ _ _
  exact (roundDiv_bounds n _).2.trans hlt

theorem le_roundSig {n d : Nat} (hd : 0 < d) (hk : dropBits n d ≠ 0) : 2 ^ 52 ≤ roundSig n d := by
  have hle : 2 ^ 52 ≤ n / (d * 2 ^ dropBits n d) := by
    rw [Nat.le_div_iff_mul_le (by positivity)]
    calc 2 ^ 52 * (d * 2 ^ dropBits n d) = 2 ^ (52 + dropBits n d) * d := (two_pow_add_mul _ _ _).symm
      _ ≤ n := two_pow_dropBits_le hk
  exact hle.trans (roundDiv_bounds n _).1

/-! ### The overflow threshold -/

theorem overflowUnits_pos : 0 < overflowUnits := Nat.sub_pos_of_lt (pow_lt_pow_right₀ one_lt_two (by omega))

/-- The threshold of a ratio over `d` in units of `d * 2^2044`, half a unit in the last place of the last finite binade. -/
theorem overflowUnits_mul (d : Nat) : overflowUnits * d = (2 ^ 54 - 1) * (d * 2 ^ 2044) := by
  rw [overflowUnits, mul_comm d, ← mul_assoc, Nat.sub_one_mul, ← pow_add]

/-- In the last finite binade, which drops 2045 bits, the significand reaches `2^53` exactly at the threshold: the midpoint
below `2^53` lies beside an odd significand. -/
theorem roundDiv_lt_iff_overflow (n : Nat) {e : Nat} (he : 0 < e) :
    roundDiv n (2 * e) < 2 ^ 53 ↔ n < (2 ^ 54 - 1) * e := by
  obtain ⟨hhalf, heven⟩ := roundDiv_half n (d := 2 * e) (by omega)
  generalize roundDiv n (2 * e) = m at hhalf heven ⊢
  constructor
  · intro hm
    rcases Nat.lt_or_eq_of_le (Nat.le_sub_one_of_lt hm) with hlow | rfl
    · have hle : m * (2 * e) ≤ (2 ^ 53 - 2) * (2 * e) := Nat.mul_le_mul_right _ (by omega)
      omega
    · by_contra hge
      have := heven (by omega)
      omega
  · intro hn
    by_contra hm
    have hle : 2 ^ 53 * (2 * e) ≤ m * (2 * e) := Nat.mul_le_mul_right _ (by omega)
    omega

theorem roundSig_lt_iff_overflow {n d : Nat} (hd : 0 < d) (hk : dropBits n d = 2045) :
    roundSig n d < 2 ^ 53 ↔ n < overflowUnits * d := by
  have hunit : d * 2 ^ 2045 = 2 * (d * 2 ^ 2044) := by rw [pow_succ' 2 2044, mul_left_comm]
  rw [roundSig, hk, hunit, overflowUnits_mul]
  exact roundDiv_lt_iff_overflow n (by positivity)

/-- A ratio below the threshold lies in a finite binade. -/
theorem dropBits_le_of_lt_overflow {n d : Nat} (h : n < overflowUnits * d) : dropBits n d ≤ 2045 := by
  by_contra hk
  have hoverflow : overflowUnits * d ≤ 2 ^ 2098 * d :=
    Nat.mul_le_mul_right d (Nat.sub_le _ _)
  have hbinade : 2 ^ 2098 * d ≤ 2 ^ (52 + dropBits n d) * d :=
    Nat.mul_le_mul_right d (pow_le_pow_right₀ one_le_two (by omega))
  exact h.not_ge (hoverflow.trans (hbinade.trans (two_pow_dropBits_le (by omega))))

/-- A ratio from the threshold on lies in the last finite binade or past it. -/
theorem le_dropBits_of_overflow {n d : Nat} (hd : 0 < d) (h : overflowUnits * d ≤ n) : 2045 ≤ dropBits n d := by
  by_contra hk
  have hbinade : 2 ^ (53 + dropBits n d) * d ≤ 2 ^ (53 + 2044) * d :=
    Nat.mul_le_mul_right d (pow_le_pow_right₀ one_le_two (by omega))
  have hthreshold : 2 ^ (53 + 2044) * d ≤ overflowUnits * d := by
    rw [two_pow_add_mul, overflowUnits_mul]
    exact Nat.mul_le_mul_right _ (by decide)
  exact (lt_two_pow_dropBits n hd).not_ge (hbinade.trans (hthreshold.trans h))

/-- Below the threshold the rounded magnitude is that of a finite value. -/
theorem sig_lt_infBits {n d : Nat} (hd : 0 < d) (h : n < overflowUnits * d) :
    dropBits n d * 2 ^ 52 + roundSig n d < infBits := by
  have hsig := roundSig_le n hd
  unfold infBits
  rcases Nat.lt_or_eq_of_le (dropBits_le_of_lt_overflow h) with hk | hk
  · omega
  · have := (roundSig_lt_iff_overflow hd hk).mpr h
    omega

/-- From the threshold on the rounded magnitude is past the finite values. -/
theorem infBits_le_sig {n d : Nat} (hd : 0 < d) (h : overflowUnits * d ≤ n) :
    infBits ≤ dropBits n d * 2 ^ 52 + roundSig n d := by
  have hbinade := le_dropBits_of_overflow hd h
  unfold infBits
  rcases Nat.lt_or_eq_of_le hbinade with hk | hk
  · have := le_roundSig (n := n) hd (by omega)
    omega
  · have := mt (roundSig_lt_iff_overflow hd hk.symm).mp (Nat.not_lt.mpr h)
    omega

theorem roundBits_of_lt_overflow {n d : Nat} (hd : 0 < d) (h : n < overflowUnits * d) :
    roundBits n d = dropBits n d * 2 ^ 52 + roundSig n d :=
  (roundBits_eq n d).trans (min_eq_left (sig_lt_infBits hd h).le)

theorem roundBits_of_overflow {n d : Nat} (hd : 0 < d) (h : overflowUnits * d ≤ n) : roundBits n d = infBits :=
  (roundBits_eq n d).trans (min_eq_right (infBits_le_sig hd h))

/-! ### The nearest finite value -/

/-- No value of a pattern is nearer to `n / d` units than the rounded significand in its binade: the multiples of `2^k` by
`roundDiv_nearest`, and any other lies below the binade, so that its least value, a multiple, is nearer. -/
theorem roundSig_nearest (n : Nat) {d : Nat} (hd : 0 < d) (c : Word) :
    ((roundSig n d * 2 ^ dropBits n d * d : Nat) - n : Int).natAbs ≤ (f64Units c * d - n).natAbs ∧
    (((roundSig n d * 2 ^ dropBits n d * d : Nat) - n : Int).natAbs = (f64Units c * d - n).natAbs →
      f64Units c ≠ (roundSig n d * 2 ^ dropBits n d : Nat) → roundSig n d % 2 = 0) := by
  have hnearest := roundDiv_nearest n (d := d * 2 ^ dropBits n d) (by positivity)
  have hunits : roundSig n d * 2 ^ dropBits n d * d = roundDiv n (d * 2 ^ dropBits n d) * (d * 2 ^ dropBits n d) := by
    rw [roundSig]
    ring
  rcases two_pow_dvd_f64Units_or_lt c (dropBits n d) with ⟨j, hj⟩ | ⟨hk, hbelow⟩
  · have hc : f64Units c * d = j * (d * 2 ^ dropBits n d : Nat) := by
      rw [hj]
      push_cast
      ring
    rw [hunits, hc]
    refine ⟨(hnearest j).1, fun htie hne => (hnearest j).2 htie fun hjm => hne ?_⟩
    rw [hj, hjm, roundSig]
    push_cast
    ring
  · have hleast : 2 ^ 52 * (d * 2 ^ dropBits n d) ≤ n := (two_pow_add_mul _ _ _).symm.trans_le (two_pow_dropBits_le hk)
    have hc : f64Units c * d < (2 ^ 52 * (d * 2 ^ dropBits n d) : Nat) := by
      rw [← two_pow_add_mul, Nat.cast_mul]
      exact mul_lt_mul_of_pos_right (by omega) (by exact_mod_cast hd)
    have hsig := (hnearest (2 ^ 52)).1
    rw [hunits]
    omega

/-- A ratio below the threshold, under either sign, is rounded to the nearest finite value. -/
theorem nearestEven_packSign (s : Bool) {n d : Nat} (hd : 0 < d) (h : n < overflowUnits * d) :
    NearestEven (if s then -(n : Int) else n) d (packSign s (roundBits n d)) := by
  have hfinite := sig_lt_infBits hd h
  have hsig := roundSig_le n hd
  have hbinade : dropBits n d = 0 ∨ 2 ^ 52 ≤ roundSig n d := or_iff_not_imp_left.mpr (le_roundSig hd)
  rw [roundBits_of_lt_overflow hd h]
  have hunits := f64Units_packSign s hfinite.le
  rw [f64Mag_packSign s hfinite.le hsig hbinade] at hunits
  have hfrac : f64Frac (packSign s (dropBits n d * 2 ^ 52 + roundSig n d)) % 2 = roundSig n d % 2 := by
    rw [f64Frac_packSign s hfinite.le]
    omega
  refine ⟨?_, fun c _ => ?_⟩
  · rw [f64Finite, f64Exp_packSign s hfinite.le]
    unfold infBits at hfinite
    omega
  rw [hunits, hfrac]
  cases s
  · have hnearest := roundSig_nearest n hd c
    rwa [Nat.cast_mul _ d] at hnearest
  · have hnearest := roundSig_nearest n hd (f64Neg c)
    rw [f64Units_f64Neg, Nat.cast_mul _ d, neg_mul] at hnearest
    rw [if_pos rfl, if_pos rfl, neg_mul]
    obtain ⟨hle, heven⟩ := hnearest
    exact ⟨by omega, fun htie hne => heven (by omega) (by omega)⟩

/-- Both signs turned round, the ratio and its nearest value are the same. -/
theorem nearestEven_neg_neg {n d : Int} {r : Word} : NearestEven (-n) (-d) r ↔ NearestEven n d r := by
  have hdist : ∀ c : Word, (f64Units c * -d - -n).natAbs = (f64Units c * d - n).natAbs := fun c => by
    rw [mul_neg]
    omega
  simp only [NearestEven, hdist]

theorem nearestEven_packSign_of_pos {n d : Int} {s : Bool} (hd : 0 < d) (hs : n ≠ 0 → s = decide (n < 0))
    (h : n.natAbs < overflowUnits * d.natAbs) : NearestEven n d (packSign s (roundBits n.natAbs d.natAbs)) := by
  have hn : (if s then -(n.natAbs : Int) else n.natAbs) = n := by
    rcases eq_or_ne n 0 with rfl | hne
    · simp
    · simp only [hs hne, decide_eq_true_eq]
      split <;> omega
  have hnearest := nearestEven_packSign s (Int.natAbs_pos.mpr hd.ne') h
  rwa [hn, Int.natAbs_of_nonneg hd.le] at hnearest

/-- The rounding function rounds correctly: under the sign of the exact value, `roundBits` is the magnitude of the result. The
sign is free where the exact value is zero. -/
theorem roundsTo_packSign {n d : Int} {s : Bool} (hd : d ≠ 0) (hs : n ≠ 0 → s = (decide (n < 0) ^^ decide (d < 0))) :
    RoundsTo n d (packSign s (roundBits n.natAbs d.natAbs)) := by
  rcases Nat.lt_or_ge n.natAbs (overflowUnits * d.natAbs) with hlt | hge
  · rw [roundsTo_of_lt hlt]
    rcases Int.lt_or_gt_of_ne hd with hneg | hpos
    · rw [← nearestEven_neg_neg]
      rw [← Int.natAbs_neg n, ← Int.natAbs_neg d] at hlt ⊢
      refine nearestEven_packSign_of_pos (Int.neg_pos_of_neg hneg) (fun hne => ?_) hlt
      rw [hs (neg_ne_zero.mp hne), decide_eq_true hneg, Bool.xor_true, ← decide_not, decide_eq_decide]
      omega
    · refine nearestEven_packSign_of_pos hpos (fun hne => ?_) hlt
      rw [hs hne, decide_eq_false hpos.not_gt, Bool.xor_false]
  · have hpos := Int.natAbs_pos.mpr hd
    have hne : n ≠ 0 := Int.natAbs_pos.mp ((Nat.mul_pos overflowUnits_pos hpos).trans_le hge)
    rw [roundsTo_of_ge hge, roundBits_of_overflow hpos hge, packSign_infBits, hs hne]

end Sys2Proof.Machine
end

section
/-! SUPPORT. The proofs of the statements about the binary64 operations (44_alu.md R187 to R190, R201): what each operation gives
on finite operands and on infinities, said once, and from it the rounding of sums and differences (O42), of products and
quotients (O43), and the special values (O41). -/

namespace Sys2Proof.Machine

/-! ### The operations by their exact result -/

theorem fpOp_of_isNan (op : FpOp) {a b : Word} (h : f64IsNan a = true ∨ f64IsNan b = true) : fpOp op a b = fpNan op a b :=
  if_pos ((Bool.or_eq_true _ _).mpr h)

theorem fpOp_of_not_isNan {a b : Word} (ha : f64IsNan a = false) (hb : f64IsNan b = false) (op : FpOp) :
    fpOp op a b = (f64Exact op a b).getD (fpNan op a b) := by
  simp only [fpOp, ha, hb, Bool.or_self, Bool.false_eq_true, if_false]
  cases f64Exact op a b <;> rfl

@[simp] theorem f64Exact_fadd (a b : Word) : f64Exact .fadd a b = f64Add a b := rfl
@[simp] theorem f64Exact_fsub (a b : Word) : f64Exact .fsub a b = f64Add a (f64Neg b) := rfl
@[simp] theorem f64Exact_fmul (a b : Word) : f64Exact .fmul a b = f64Mul a b := rfl
@[simp] theorem f64Exact_fdiv (a b : Word) : f64Exact .fdiv a b = f64Div a b := rfl

/-! ### NaN results -/

/-- An exponent field set to ones stays so under a further or. -/
theorem f64Exp_or_ones (v low : Word) : f64Exp (v ||| 0x7FF0000000000000#64 ||| low) = 2047 := by
  have hones : (0x7FF0000000000000#64).extractLsb' 52 11 = BitVec.allOnes 11 := by decide
  rw [f64Exp, BitVec.extractLsb'_or, BitVec.extractLsb'_or, hones, BitVec.or_allOnes, BitVec.allOnes_or]
  rfl

theorem f64Frac_or_one_ne_zero (v : Word) : f64Frac (v ||| 1#64) ≠ 0 := by
  have hodd : (v ||| 1#64).toNat % 2 = 1 := by
    rw [BitVec.toNat_or, Nat.or_mod_two_eq_one]
    exact .inr rfl
  rw [f64Frac_eq]
  omega

/-- A NaN result is a NaN encoding, whatever the unknown bits are (R201, log entry 6). -/
theorem f64IsNan_fpNan (op : FpOp) (a b : Word) : f64IsNan (fpNan op a b) = true := by
  rw [f64IsNan_iff]
  by_cases hfrac : f64Frac (Config.fpNanBits op a b ||| 0x7FF0000000000000#64) = 0
  · rw [show fpNan op a b = Config.fpNanBits op a b ||| 0x7FF0000000000000#64 ||| 1 from if_pos hfrac]
    exact ⟨f64Exp_or_ones _ _, f64Frac_or_one_ne_zero _⟩
  · rw [show fpNan op a b = Config.fpNanBits op a b ||| 0x7FF0000000000000#64 from if_neg hfrac]
    exact ⟨by simpa using f64Exp_or_ones (Config.fpNanBits op a b) 0, hfrac⟩

/-! ### Finite operands -/

theorem natAbs_two_pow (i : Nat) : ((2 : Int) ^ i).natAbs = 2 ^ i := Int.natAbs_pow 2 i

/-- The sign of a sum of finite values: its own, and where it is zero minus only for two negative zeros (R187). -/
def sumSign (a b : Word) : Bool :=
  if f64Units a + f64Units b = 0 then f64Sign a && f64Sign b else decide (f64Units a + f64Units b < 0)

section finite
variable {a b : Word} (ha : f64Finite a) (hb : f64Finite b)
include ha hb

theorem f64Add_of_finite :
    f64Add a b = some (packSign (sumSign a b) (roundBits (f64Units a + f64Units b).natAbs 1)) := by
  simp only [f64Add, f64IsInf_of_finite ha, f64IsInf_of_finite hb, Bool.false_eq_true, if_false, sumSign]
  by_cases h : f64Units a + f64Units b = 0
  · rw [if_pos h, if_pos h, h]
    rfl
  · rw [if_neg h, if_neg h]

theorem fpOp_fadd_of_finite :
    fpOp .fadd a b = packSign (sumSign a b) (roundBits (f64Units a + f64Units b).natAbs 1) := by
  rw [fpOp_of_not_isNan (f64IsNan_of_finite ha) (f64IsNan_of_finite hb), f64Exact_fadd, f64Add_of_finite ha hb,
    Option.getD_some]

/-- A difference of finite values is the sum with the second operand's sign inverted (R188). -/
theorem fpOp_fsub_of_finite : fpOp .fsub a b = fpOp .fadd a (f64Neg b) := by
  rw [fpOp_fadd_of_finite ha (f64Finite_f64Neg hb), fpOp_of_not_isNan (f64IsNan_of_finite ha) (f64IsNan_of_finite hb),
    f64Exact_fsub, f64Add_of_finite ha (f64Finite_f64Neg hb), Option.getD_some]

theorem fpOp_fmul_of_finite : fpOp .fmul a b =
    packSign (f64Sign a ^^ f64Sign b) (roundBits (f64Units a * f64Units b).natAbs ((2 : Int) ^ 1074).natAbs) := by
  rw [fpOp_of_not_isNan (f64IsNan_of_finite ha) (f64IsNan_of_finite hb), f64Exact_fmul, f64Mul, f64IsInf_of_finite ha,
    f64IsInf_of_finite hb, if_neg Bool.false_ne_true, if_neg Bool.false_ne_true, Int.natAbs_mul, natAbs_f64Units,
    natAbs_f64Units, natAbs_two_pow, Option.getD_some]

theorem fpOp_fdiv_of_finite (h : f64Units b ≠ 0) : fpOp .fdiv a b =
    packSign (f64Sign a ^^ f64Sign b) (roundBits (f64Units a * 2 ^ 1074).natAbs (f64Units b).natAbs) := by
  rw [fpOp_of_not_isNan (f64IsNan_of_finite ha) (f64IsNan_of_finite hb), f64Exact_fdiv, f64Div, f64IsInf_of_finite ha,
    f64IsInf_of_finite hb, if_neg Bool.false_ne_true, if_neg Bool.false_ne_true, if_neg (mt (f64Mag_eq_zero_iff b).mp h),
    Int.natAbs_mul, natAbs_f64Units, natAbs_f64Units, natAbs_two_pow,
    Option.getD_some]

/-- A zero divisor gives an infinity, but a NaN for a zero dividend (R190). -/
theorem fpOp_fdiv_by_zero (h : f64Units b = 0) :
    fpOp .fdiv a b = if f64Units a = 0 then fpNan .fdiv a b else signedInf (f64Sign a ^^ f64Sign b) := by
  rw [fpOp_of_not_isNan (f64IsNan_of_finite ha) (f64IsNan_of_finite hb), f64Exact_fdiv, f64Div, f64IsInf_of_finite ha,
    f64IsInf_of_finite hb, if_neg Bool.false_ne_true, if_neg Bool.false_ne_true, if_pos ((f64Mag_eq_zero_iff b).mpr h),
    packSign_infBits]
  simp only [f64Mag_eq_zero_iff]
  split <;> rfl

/-! ### Rounding (R201) -/

/-- A sum is the exact one rounded, the sign that `sumSign` gives a zero sum being free. -/
theorem roundsTo_fadd : RoundsTo (f64Units a + f64Units b) 1 (fpOp .fadd a b) := by
  rw [fpOp_fadd_of_finite ha hb]
  refine roundsTo_packSign one_ne_zero fun h => ?_
  rw [sumSign, if_neg h]
  exact (Bool.xor_false _).symm

theorem roundsTo_fsub : RoundsTo (f64Units a - f64Units b) 1 (fpOp .fsub a b) := by
  rw [fpOp_fsub_of_finite ha hb, sub_eq_add_neg, ← f64Units_f64Neg]
  exact roundsTo_fadd ha (f64Finite_f64Neg hb)

end finite

/-- Settles O42, by `roundsTo_fadd` and `roundsTo_fsub`. -/
theorem floatSumRoundsToNearestEven : Obligations.FloatSumRoundsToNearestEven :=
  fun _ _ ha hb => ⟨roundsTo_fadd ha hb, roundsTo_fsub ha hb⟩

/-- The sign of a product that is not zero, by the sign bits of its factors. -/
theorem decide_mul_f64Units_neg {a b : Word} (h : f64Units a * f64Units b ≠ 0) :
    decide (f64Units a * f64Units b < 0) = (f64Sign a ^^ f64Sign b) := by
  obtain ⟨ha, hb⟩ := mul_ne_zero_iff.mp h
  rw [← decide_f64Units_neg ha, ← decide_f64Units_neg hb]
  rcases Int.lt_or_gt_of_ne ha with ha | ha <;> rcases Int.lt_or_gt_of_ne hb with hb | hb
  · simp [ha, hb, (mul_pos_of_neg_of_neg ha hb).not_gt]
  · simp [ha, hb.not_gt, mul_neg_of_neg_of_pos ha hb]
  · simp [ha.not_gt, hb, mul_neg_of_pos_of_neg ha hb]
  · simp [ha.not_gt, hb.not_gt, (mul_pos ha hb).not_gt]

section finite
variable {a b : Word} (ha : f64Finite a) (hb : f64Finite b)
include ha hb

theorem roundsTo_fmul : RoundsTo (f64Units a * f64Units b) (2 ^ 1074) (fpOp .fmul a b) := by
  rw [fpOp_fmul_of_finite ha hb]
  refine roundsTo_packSign (pow_ne_zero _ two_ne_zero) fun h => ?_
  rw [decide_mul_f64Units_neg h, decide_eq_false (pow_pos two_pos _).not_gt, Bool.xor_false]

theorem fpOp_fmul_of_overflow (h : overflowUnits * 2 ^ 1074 ≤ (f64Units a * f64Units b).natAbs) :
    fpOp .fmul a b = signedInf (f64Sign a ^^ f64Sign b) := by
  have hscale : 0 < 2 ^ 1074 := pow_pos two_pos _
  rw [fpOp_fmul_of_finite ha hb, natAbs_two_pow, roundBits_of_overflow hscale h, packSign_infBits]

variable (hne : f64Units b ≠ 0)
include hne

theorem roundsTo_fdiv : RoundsTo (f64Units a * 2 ^ 1074) (f64Units b) (fpOp .fdiv a b) := by
  rw [fpOp_fdiv_of_finite ha hb hne]
  refine roundsTo_packSign hne fun h => ?_
  have hscale : f64Units a * 2 ^ 1074 < 0 ↔ f64Units a < 0 :=
    ⟨fun hneg => neg_of_mul_neg_left hneg (pow_nonneg zero_le_two _),
      fun hneg => mul_neg_of_neg_of_pos hneg (pow_pos two_pos _)⟩
  rw [decide_f64Units_neg hne, decide_eq_decide.mpr hscale, decide_f64Units_neg (left_ne_zero_of_mul h)]

theorem fpOp_fdiv_of_overflow (h : overflowUnits * (f64Units b).natAbs ≤ (f64Units a * 2 ^ 1074).natAbs) :
    fpOp .fdiv a b = signedInf (f64Sign a ^^ f64Sign b) := by
  rw [fpOp_fdiv_of_finite ha hb hne, roundBits_of_overflow (Int.natAbs_pos.mpr hne) h, packSign_infBits]

end finite

/-- Settles O43, by the rounding of products and of quotients and their overflow under the sign of the operands. -/
theorem floatProductRoundsToNearestEven : Obligations.FloatProductRoundsToNearestEven :=
  fun _ _ ha hb => ⟨roundsTo_fmul ha hb, fpOp_fmul_of_overflow ha hb,
    fun hne => ⟨roundsTo_fdiv ha hb hne, fpOp_fdiv_of_overflow ha hb hne⟩⟩

/-! ### Infinite operands (R187 to R190) -/

section infinite
variable {a b : Word} (ha : f64IsInf a = true)
include ha

theorem f64Mag_ne_zero_of_isInf : f64Mag a ≠ 0 := by
  have hexp : f64Exp a ≠ 0 := by rw [((f64IsInf_iff a).mp ha).1]; decide
  rw [f64Mag, if_neg hexp]
  positivity

theorem f64Add_of_isInf_finite (hb : f64Finite b) : f64Add a b = some a := by
  simp [f64Add, ha, f64IsInf_of_finite hb]

theorem f64Add_of_finite_isInf (hb : f64Finite b) : f64Add b a = some a := by
  simp [f64Add, ha, f64IsInf_of_finite hb]

theorem f64Add_of_isInf_isInf (hb : f64IsInf b = true) :
    f64Add a b = if f64Sign a = f64Sign b then some a else none := by
  simp [f64Add, ha, hb]

theorem f64Mul_of_isInf : f64Mul a b = if f64Mag b = 0 then none else some (signedInf (f64Sign a ^^ f64Sign b)) := by
  simp [f64Mul, ha, packSign_infBits]

theorem f64Mul_of_finite_isInf (hb : f64Finite b) :
    f64Mul b a = if f64Mag b = 0 then none else some (signedInf (f64Sign a ^^ f64Sign b)) := by
  simp [f64Mul, ha, f64IsInf_of_finite hb, packSign_infBits, Bool.xor_comm]

theorem f64Div_of_isInf_isInf (hb : f64IsInf b = true) : f64Div a b = none := by
  simp [f64Div, ha, hb]

theorem f64Div_of_isInf_finite (hb : f64Finite b) : f64Div a b = some (signedInf (f64Sign a ^^ f64Sign b)) := by
  simp [f64Div, ha, f64IsInf_of_finite hb, packSign_infBits]

theorem f64Div_of_finite_isInf (hb : f64Finite b) : f64Div b a = some (signedZero (f64Sign a ^^ f64Sign b)) := by
  simp [f64Div, ha, f64IsInf_of_finite hb, packSign_zero, Bool.xor_comm]

/-- An infinity beats every finite value in a sum and a difference. -/
theorem fpOp_sum_isInf_finite (hb : f64Finite b) :
    fpOp .fadd a b = a ∧ fpOp .fadd b a = a ∧ fpOp .fsub a b = a ∧ fpOp .fsub b a = signedInf (!f64Sign a) := by
  have hna := f64IsNan_of_isInf ha
  have hnb := f64IsNan_of_finite hb
  have hneg : f64IsInf (f64Neg a) = true := (f64IsInf_f64Neg a).trans ha
  simp only [fpOp_of_not_isNan hna hnb, fpOp_of_not_isNan hnb hna, f64Exact_fadd, f64Exact_fsub,
    f64Add_of_isInf_finite ha hb, f64Add_of_finite_isInf ha hb, f64Add_of_isInf_finite ha (f64Finite_f64Neg hb),
    f64Add_of_finite_isInf hneg hb, Option.getD_some, true_and]
  rw [← f64Sign_f64Neg]
  exact eq_signedInf hneg

/-- Two infinities: a sum of equal and a difference of opposite signs, every product, and no quotient. -/
theorem fpOp_isInf_isInf (hb : f64IsInf b = true) :
    fpOp .fadd a b = (if f64Sign a = f64Sign b then a else fpNan .fadd a b) ∧
    fpOp .fsub a b = (if f64Sign a = f64Sign b then fpNan .fsub a b else a) ∧
    fpOp .fmul a b = signedInf (f64Sign a ^^ f64Sign b) ∧
    fpOp .fdiv a b = fpNan .fdiv a b := by
  have hneg : f64IsInf (f64Neg b) = true := (f64IsInf_f64Neg b).trans hb
  simp only [fpOp_of_not_isNan (f64IsNan_of_isInf ha) (f64IsNan_of_isInf hb), f64Exact_fadd, f64Exact_fsub, f64Exact_fmul,
    f64Exact_fdiv, f64Add_of_isInf_isInf ha hb, f64Add_of_isInf_isInf ha hneg, f64Mul_of_isInf ha,
    if_neg (f64Mag_ne_zero_of_isInf hb), f64Div_of_isInf_isInf ha hb, f64Sign_f64Neg, Option.getD_some, Option.getD_none,
    and_self, and_true]
  cases f64Sign a <;> cases f64Sign b <;> simp

/-- An infinity and a finite value in a product or a quotient: no product with a zero, and no finite quotient but zero. -/
theorem fpOp_product_isInf_finite (hb : f64Finite b) :
    fpOp .fmul a b = (if f64Units b = 0 then fpNan .fmul a b else signedInf (f64Sign a ^^ f64Sign b)) ∧
    fpOp .fmul b a = (if f64Units b = 0 then fpNan .fmul b a else signedInf (f64Sign a ^^ f64Sign b)) ∧
    fpOp .fdiv a b = signedInf (f64Sign a ^^ f64Sign b) ∧
    fpOp .fdiv b a = signedZero (f64Sign a ^^ f64Sign b) := by
  have hna := f64IsNan_of_isInf ha
  have hnb := f64IsNan_of_finite hb
  simp only [fpOp_of_not_isNan hna hnb, fpOp_of_not_isNan hnb hna, f64Exact_fmul, f64Exact_fdiv, f64Mul_of_isInf ha,
    f64Mul_of_finite_isInf ha hb, f64Div_of_isInf_finite ha hb, f64Div_of_finite_isInf ha hb, f64Mag_eq_zero_iff,
    Option.getD_some, and_true]
  split <;> exact ⟨rfl, rfl⟩

end infinite

/-! ### Signs of finite results (R187 to R190) -/

section finite
variable {a b : Word} (ha : f64Finite a) (hb : f64Finite b)
include ha hb

/-- A product and a quotient have the exclusive-or of the operands' signs, a zero one too. -/
theorem f64Sign_product :
    f64Sign (fpOp .fmul a b) = (f64Sign a ^^ f64Sign b) ∧
    (f64Units b ≠ 0 → f64Sign (fpOp .fdiv a b) = (f64Sign a ^^ f64Sign b)) := by
  refine ⟨?_, fun hne => ?_⟩
  · rw [fpOp_fmul_of_finite ha hb]
    exact f64Sign_packSign _ (roundBits_le _ _)
  · rw [fpOp_fdiv_of_finite ha hb hne]
    exact f64Sign_packSign _ (roundBits_le _ _)

/-- A zero sum is minus zero only where both operands are. -/
theorem fpOp_fadd_eq_zero (h : f64Units a + f64Units b = 0) : fpOp .fadd a b = signedZero (f64Sign a && f64Sign b) := by
  have hbits : roundBits (0 : Int).natAbs 1 = 0 := by decide
  rw [fpOp_fadd_of_finite ha hb, sumSign, if_pos h, h, hbits, packSign_zero]

theorem fpOp_fsub_eq_zero (h : f64Units a - f64Units b = 0) : fpOp .fsub a b = signedZero (f64Sign a && !f64Sign b) := by
  rw [fpOp_fsub_of_finite ha hb, ← f64Sign_f64Neg]
  refine fpOp_fadd_eq_zero ha (f64Finite_f64Neg hb) ?_
  rwa [f64Units_f64Neg, ← sub_eq_add_neg]

end finite

theorem fpOp_fsub_self {x : Word} (h : f64Finite x) : fpOp .fsub x x = 0 := by
  rw [fpOp_fsub_eq_zero h h (sub_self _), Bool.and_not_self]
  rfl

/-- Settles O41, class of operands by class. -/
theorem floatSpecialValues : Obligations.FloatSpecialValues :=
  ⟨fun op _ _ h => fpOp_of_isNan op h, f64IsNan_fpNan, fun _ _ ha hb => fpOp_sum_isInf_finite ha hb,
    fun _ _ ha hb => fpOp_isInf_isInf ha hb, fun _ _ ha hb => fpOp_product_isInf_finite ha hb,
    fun _ _ ha hb => fpOp_fdiv_by_zero ha hb, fun _ _ ha hb => f64Sign_product ha hb,
    fun _ _ ha hb => ⟨fpOp_fadd_eq_zero ha hb, fpOp_fsub_eq_zero ha hb⟩, fun _ h => fpOp_fsub_self h⟩

end Sys2Proof.Machine
end

section
/-! SUPPORT. The proof of the statement about a load's or a store's address out of range (45_lsu.md R220, O52): proved once for
any control record, from the cycle as R249 writes it. -/

namespace Sys2Proof.Machine

/-- In R249's cycle, an address out of range is the outcome once the fetch and the ALU have given theirs, before any check of
the Writeback tick. -/
theorem cycleOutcome_dmemRange {d : Decoded} {s : State} {r : Word} (hin : imemOut s.params (efa s) = false)
    (halu : cycleAlu d s = .ok r) (hop : d.entry.mem.op ≠ .none) (hout : dmemOut s.params (cycleAddr d r s) = true) :
    cycleOutcome d s = .fault (.dmemRange (cycleAddr d r s) (beforeMemory r s)) := by
  have hrange : d.entry.mem.op ≠ .none ∧ dmemOut s.params (cycleAddr d r s) = true := ⟨hop, hout⟩
  simp only [cycleOutcome, hin, halu, if_pos hrange, Bool.false_eq_true, if_false]

/-- From a ready state, the ticks of any control record stop at an address out of range in the Memory tick. -/
theorem runCycle_dmemRange {d : Decoded} {s : State} {r : Word} (hs : s.Ready) (halu : cycleAlu d s = .ok r)
    (hop : d.entry.mem.op ≠ .none) (hout : dmemOut s.params (cycleAddr d r s) = true) :
    runCycle d s = .fault (.dmemRange (cycleAddr d r s) (beforeMemory r s)) :=
  (runCycle_eq_cycleOutcome d hs.running hs.at_fetch).trans (cycleOutcome_dmemRange hs.in_range halu hop hout)

/-- Settles O52: a numbered row and a class both run the cycle of the table's entry, so `runCycle_dmemRange` answers both. -/
theorem dataAccessOutOfRangeIsFatal : Obligations.DataAccessOutOfRangeIsFatal :=
  ⟨fun k f s _ hs halu hop hout => (exec_numbered k f s).trans (runCycle_dmemRange hs halu hop hout),
    fun m f s _ hs halu hop hout => (exec_named m f s).trans (runCycle_dmemRange hs halu hop hout)⟩

end Sys2Proof.Machine
end

section
/-! SUPPORT. The proofs of the statements about the writeback unit (46_writeback.md): the frame of every numbered row (O12) and
the halt at the edge of the Writeback tick (O22). The frame is read off R249's `cycleEnd`, whose register file and data memory
each have one lemma that says what it leaves as before. -/

namespace Sys2Proof.Machine

/-! ### The frame of an instruction cycle (R233, 45_lsu.md R214) -/

/-- A register other than the mapped destination of a register-writing entry is as before the cycle (R233). -/
theorem readReg_cycleEnd_of_not_dest {d : Decoded} {s : State} {j : Fin numRegs}
    (hj : ¬(d.entry.wb.dest = .reg ∧ j = rdIndex s.params d)) (r : Word) : readReg (cycleEnd d r s) j = readReg s j := by
  change (cycleRegs d r s)[j] = s.x[j]
  unfold cycleRegs
  split
  · next hreg => exact writeReg_other s.x _ fun hdest => hj ⟨hreg, hdest⟩
  · rfl

/-- An entry that stores nothing leaves the data memory as it was (45_lsu.md R214). -/
theorem cycleDmem_of_not_store {d : Decoded} (hop : d.entry.mem.op ≠ .store) (r : Word) (s : State) :
    cycleDmem d r s = s.dmem := if_neg hop

/-- A byte outside the cell that a write addresses is as before it (20_memory.md R59). -/
theorem readByte_memWrite_outside {m : Memory} (hm : m.wf) {addr : Word} {a : Nat}
    (ha : a < 8 * dmemIndex addr ∨ 8 * dmemIndex addr + 8 ≤ a) (v : Word) :
    readByte (memWrite m addr v) a = readByte m a :=
  (readByte_writeCell hm _ v a).trans (if_neg (by omega))

/-- A byte outside the cell at the effective address is as before the cycle, whatever the memory operation. -/
theorem readByte_cycleDmem_outside {d : Decoded} {r : Word} {s : State} (hm : s.dmem.wf) {a : Nat}
    (ha : a < 8 * dmemIndex (cycleAddr d r s) ∨ 8 * dmemIndex (cycleAddr d r s) + 8 ≤ a) :
    readByte (cycleDmem d r s) a = readByte s.dmem a := by
  unfold cycleDmem
  split
  · exact readByte_memWrite_outside hm ha _
  · rfl

/-- A numbered row that completes, from a ready state, ends the cycle of its table entry with the ALU's value. -/
theorem eq_cycleEnd_of_exec_numbered {k : Opcode} {f : Fields} {s t : State} {r : Word} (hs : s.Ready)
    (halu : cycleAlu (lookup s.params k f) s = .ok r) (h : exec (.numbered k f) s = .next t) :
    t = cycleEnd (lookup s.params k f) r s := by
  rw [exec_numbered, runCycle_eq_cycleOutcome _ hs.running hs.at_fetch] at h
  obtain ⟨r', halu', ht⟩ := cycleOutcome_next h
  rw [halu] at halu'
  cases halu'
  exact ht

/-- Settles O12: the frame of `cycleEnd`, with `effAddr_beforeMemory` for the stored address. -/
theorem numberedRowFrame : Obligations.NumberedRowFrame := by
  intro k f s t r hs hm halu h
  obtain rfl := eq_cycleEnd_of_exec_numbered hs halu h
  rw [effAddr_beforeMemory]
  exact ⟨fun j hj => readReg_cycleEnd_of_not_dest hj r,
    fun hop a => congrArg (readByte · a) (cycleDmem_of_not_store hop r s),
    fun _ a ha => readByte_cycleDmem_outside hm ha, rfl, rfl⟩

/-! ### The halt (R236, 30_encoding.md R96) -/

/-- The halt is driven exactly in the Writeback tick of the halt opcode, whatever its entry. -/
theorem haltsNow_iff {d : Decoded} {s : State} :
    haltsNow d s = true ↔ s.stage = .writeback ∧ d.opc = s.params.opc .halt := by
  simp [haltsNow]

/-- The edge of a running machine's tick sets the stop flag exactly where the halt is driven. -/
theorem nextState_stop_iff {s : State} (hrun : s.stop = false) (d : Decoded) (v : Word) :
    (nextState d v s).stop = true ↔ haltsNow d s = true := by
  simp [hrun]

/-- Settles O22: the edge of the fetched word's tick, whose control record carries the word's opcode field. -/
theorem haltSetsStopAtWriteback : Obligations.HaltSetsStopAtWriteback := by
  intro s t w hrun hw h
  obtain ⟨v, rfl⟩ := tick_eq_nextState hrun hw h
  exact (nextState_stop_iff hrun _ v).trans haltsNow_iff

end Sys2Proof.Machine
end

section
/-! SUPPORT. The proofs of the statements about the instruction cycle and its rows (47_instructions.md R249, R251): how a
cycle ends once its checks pass (`runCycle_completes`, O11) and where the ALU stops it (`runCycle_aluFault`), the ticks of a
cycle against R249 (O9), the two readings of a word (O5), and the disabled entry (O60). -/

namespace Sys2Proof.Machine

/-! ### How a cycle ends (R249) -/

/-- From a ready state, a cycle that passes the checks of the Execute, the Memory and the Writeback tick ends as R249 says. -/
theorem runCycle_completes {d : Decoded} {s : State} {r : Word} (hs : s.Ready) (halu : cycleAlu d s = .ok r)
    (hrange : d.entry.mem.op ≠ .none → dmemOut s.params (cycleAddr d r s) = false)
    (hguard : ¬(d.entry.wb.dest = .reg ∧ d.entry.map.rd = .off)) : runCycle d s = .next (cycleEnd d r s) := by
  have hmemory : ¬(d.entry.mem.op ≠ .none ∧ dmemOut s.params (cycleAddr d r s) = true) := fun ⟨hop, hout⟩ =>
    absurd hout (by simp [hrange hop])
  have hwriteback : ¬(d.entry.wb.dest = .reg ∧ rdIndex s.params d = guardIndex) := fun ⟨hreg, hidx⟩ =>
    hguard ⟨hreg, mapIndex_eq_guard.mp hidx⟩
  rw [runCycle_eq_cycleOutcome d hs.running hs.at_fetch, cycleOutcome, if_neg (by simp [hs.in_range]), halu]
  simp only [if_neg hmemory, if_neg hwriteback]

/-- From a ready state, a cycle stops in the Execute tick where the ALU does (R186), with the Fetch and Decode ticks
committed. -/
theorem runCycle_aluFault {d : Decoded} {s : State} {e : AluFault} (hs : s.Ready) (halu : cycleAlu d s = .error e) :
    runCycle d s = .fault (aluFatal d e (beforeExecute s)) := by
  rw [runCycle, hs.at_fetch, ticksLeft, runTicks_succ_next (tickOf_atFetch d hs.running hs.in_range hs.at_fetch),
    runTicks_succ_next (tickOf_beforeDecode d hs.running hs.in_range)]
  exact runTicks_succ_fault (tickOf_beforeExecute_error d hs.running hs.in_range halu)

/-- Settles O11: a numbered row runs the cycle of its table entry. -/
theorem numberedRowsComplete : Obligations.NumberedRowsComplete :=
  fun k f s _ hs halu hrange hguard => (exec_numbered k f s).trans (runCycle_completes hs halu hrange hguard)

/-- Settles O9: five ticks that fetch anew all fetch the first one's word, where its address is in range; where it is not, the
first tick is fatal. -/
theorem cycleIsFiveTicks : Obligations.CycleIsFiveTicks := by
  refine ⟨fun s hrun hst => ?_, fun d s hrun hst => runCycle_eq_cycleOutcome d hrun hst⟩
  rw [← runCycle_eq_cycleOutcome _ hrun hst, runCycle, hst, ticksLeft]
  cases hin : imemOut s.params (efa s) with
  | false =>
    have hs : Fetches (imemRead s.imem (efa s)) s := ⟨hrun, fetchWord_ok hin, fun hne => absurd hst hne⟩
    exact hs.run_eq_runTicks (by rw [hst, ticksLeft])
  | true =>
    have htick : tick s = .fault (.imemRange (efa s) s) := by simp [tick, hrun, fetchWord_error hin]
    rw [run_succ hrun, htick, sessionRun, runTicks_succ_fault (tickOf_imemRange hrun hin)]

/-! ### The rows of one opcode number (R249, R251) -/

/-- Under legal parameters an opcode that is no instruction's number has the disabled entry (30_encoding.md R92). -/
theorem entryOf_undefined {p : Params} (hp : legalParams p = true) {k : Opcode} (hk : p.defined k = false) :
    entryOf p k = disabledEntry := by
  obtain ⟨_, hdisabled⟩ := Bool.and_eq_true_iff.mp hp
  have hentry := List.all_eq_true.mp hdisabled k.toFin (List.mem_finRange _)
  simpa [hk] using hentry

/-- Under legal parameters the row of an undefined opcode runs as the row of its number. -/
theorem exec_undefined_eq_numbered {s : State} (hp : legalParams s.params = true) {k : Opcode}
    (hk : s.params.defined k = false) (f : Fields) : exec (.undefined k f) s = exec (.numbered k f) s := by
  rw [exec_undefined, exec_numbered, lookup, entryOf_undefined hp hk]

/-- A named row runs as the row of its opcode number, whatever the table. -/
theorem exec_named_eq_numbered (m : Mnemonic) (f : Fields) (s : State) :
    exec (.named m f) s = exec (.numbered (s.params.opc m) f) s :=
  (exec_named m f s).trans (exec_numbered _ f s).symm

/-- Settles O5: the row that `decodeNamed` reads is a class's, which has the word's number, or an undefined opcode's. -/
theorem namedRowRunsAsItsNumber : Obligations.NamedRowRunsAsItsNumber := by
  refine ⟨fun s m f => exec_named_eq_numbered m f s, fun s w hp => ?_⟩
  rw [decode, decodeNamed, Params.rowOf]
  cases hclass : s.params.classOf (opcodeField w) with
  | some m =>
    rw [← classOf_some hclass]
    exact exec_named_eq_numbered m _ s
  | none => exact exec_undefined_eq_numbered hp (by rw [Params.defined, hclass, Option.isSome_none]) _

/-! ### The end of a cycle as a change of `afterCycle` -/

/-- The end of a cycle from a ready state: `afterCycle` with the register file, the data memory and the stop flag of R249. -/
theorem cycleEnd_eq_afterCycle {s : State} (hs : s.Ready) (d : Decoded) (r : Word) :
    cycleEnd d r s =
      { afterCycle s r (cycleNext d r s) with
        x := cycleRegs d r s, dmem := cycleDmem d r s, memRdata := memRead (cycleDmem d r s) Config.neutralAddr,
        stop := decide (d.opc = s.params.opc .halt) } := by
  simp [cycleEnd, afterCycle, hs.running, hs.at_fetch]

/-- Writing the stop flag's own value changes nothing. -/
theorem afterCycle_stop_false {s : State} (hs : s.Ready) (r a : Word) :
    { afterCycle s r a with stop := false } = afterCycle s r a := by
  simp [afterCycle, hs.running]

/-- The disabled entry `E0` under any opcode (30_encoding.md R92): the sentinel in the ALU's register, the next instruction at
`A + 4`, and the stop flag where the opcode is the halt's. -/
theorem runCycle_disabledEntry {s : State} (hs : s.Ready) (k : Opcode) (f : Fields) :
    runCycle (Decoded.mk k disabledEntry f) s =
      .next { afterCycle s s.params.aluSentinel (pcPlus4 s) with stop := decide (k = s.params.opc .halt) } := by
  rw [runCycle_completes hs (r := s.params.aluSentinel) rfl (fun hop => absurd rfl hop) (fun ⟨hreg, _⟩ => by cases hreg),
    cycleEnd_eq_afterCycle hs]
  rfl

/-- Settles O60: the disabled entry under an opcode that is not the halt's. -/
theorem undefinedOpcodeIsNoOp : Obligations.UndefinedOpcodeIsNoOp := by
  intro s k f hs hk
  have hclass : s.params.classOf k = none := by simpa [Params.defined] using hk
  have hexec : exec (.undefined k f) s = .next (afterCycle s s.params.aluSentinel (efa s + 4)) := by
    rw [exec_undefined, runCycle_disabledEntry hs, decide_eq_false (classOf_none hclass .halt).symm, afterCycle_stop_false hs,
      pcPlus4]
  exact ⟨hexec, fun hp => (exec_undefined_eq_numbered hp hk f).symm.trans hexec⟩

end Sys2Proof.Machine
end

section
/-! SUPPORT. The proofs of the statements about the named instructions under their REF entries (47_instructions.md R252 to
R280). `exec_ref` turns a class into the cycle of its REF entry, a literal by which R249's cycle computes. One lemma for each
shape of entry gives the whole next state: a result that goes to a register (`exec_resultToReg`), a branch on a compare
(`exec_compareBranch`) and the disabled entry (`exec_disabledEntry`). What is left of an instruction is its ALU result, and of
the four that access the data memory their cell (`exec_ref_completes`). -/

namespace Sys2Proof.Machine

/-! ### A class under its REF entry (R250) -/

/-- The control record of a class under its REF entry. -/
def refDecoded (p : Params) (m : Mnemonic) (f : Fields) : Decoded := Decoded.mk (p.opc m) (refEntry m) f

/-- Every REF entry that writes a register maps its destination slot (30_encoding.md R94). -/
theorem refEntry_rd_mapped (m : Mnemonic) : ¬((refEntry m).wb.dest = .reg ∧ (refEntry m).map.rd = .off) := by
  cases m <;> decide

/-- An entry whose ALU result goes to `x[rd]`, without a memory access. -/
def resultToReg (e : Entry) : Prop := e.mem.op = .none ∧ e.wb = { src := .alu, dest := .reg } ∧ e.map.rd = .pass

/-- An entry whose writeback unit chooses between `x[rs]` and `A + 4` by the ALU's result, without a memory access. -/
def compareBranch (e : Entry) : Prop := e.mem.op = .none ∧ e.wb = { src := .brCond, dest := .pc } ∧ e.map.rs = .pass

section ref
variable {m : Mnemonic} {s : State} (hs : s.ReadyFor m) (f : Fields)
include hs

/-- Where the table has the class's REF entry, the class runs the cycle of that entry. -/
theorem exec_ref : exec (.named m f) s = runCycle (refDecoded s.params m f) s := by
  rw [exec_named, lookup, hs.entry, refDecoded]

/-- The opcode number of a class that is not HALT is not the halt's (30_encoding.md R95, R96). -/
theorem opc_ne_halt (hm : m ≠ .halt) : s.params.opc m ≠ s.params.opc .halt :=
  fun h => hm (opc_injective hs.distinct h)

/-- A class other than HALT completes with the register file and the data memory of R249, where its data address, if it has one,
is in range. -/
theorem exec_ref_completes {r : Word} (hm : m ≠ .halt) (halu : cycleAlu (refDecoded s.params m f) s = .ok r)
    (hrange : (refEntry m).mem.op ≠ .none → dmemOut s.params (cycleAddr (refDecoded s.params m f) r s) = false) :
    exec (.named m f) s = .next
      { afterCycle s r (cycleNext (refDecoded s.params m f) r s) with
        x := cycleRegs (refDecoded s.params m f) r s, dmem := cycleDmem (refDecoded s.params m f) r s,
        memRdata := memRead (cycleDmem (refDecoded s.params m f) r s) Config.neutralAddr } := by
  have hstop : decide ((refDecoded s.params m f).opc = s.params.opc .halt) = s.stop := by
    rw [hs.ready.running]
    exact decide_eq_false (opc_ne_halt hs hm)
  rw [exec_ref hs, runCycle_completes hs.ready halu hrange (refEntry_rd_mapped m), cycleEnd_eq_afterCycle hs.ready, hstop]
  rfl

/-- An address out of range stops a class that accesses memory in the Memory tick (45_lsu.md R220). -/
theorem exec_ref_dmemRange {r : Word} (halu : cycleAlu (refDecoded s.params m f) s = .ok r)
    (hop : (refEntry m).mem.op ≠ .none) (hout : dmemOut s.params (cycleAddr (refDecoded s.params m f) r s) = true) :
    exec (.named m f) s = .fault (.dmemRange (cycleAddr (refDecoded s.params m f) r s) (beforeMemory r s)) :=
  (exec_ref hs f).trans (runCycle_dmemRange hs.ready halu hop hout)

/-! ### The next state by the shape of the REF entry -/

/-- A class whose ALU result goes to `x[rd]` completes with that result there, the next instruction at `A + 4`. -/
theorem exec_resultToReg {r : Word} (he : resultToReg (refEntry m))
    (halu : cycleAlu (refDecoded s.params m f) s = .ok r) : exec (.named m f) s = .next (afterRegWrite s f.rd r) := by
  obtain ⟨hop, hwb, hrd⟩ := he
  have hm : m ≠ .halt := by
    rintro rfl
    cases hwb
  have hregs : cycleRegs (refDecoded s.params m f) r s = writeReg s.x (regIndex f.rd) r := by
    simp [cycleRegs, cycleResult, rdIndex, refDecoded, hwb, hrd]
  have hnext : cycleNext (refDecoded s.params m f) r s = pcPlus4 s := by simp [cycleNext, refDecoded, hwb]
  have hdmem : cycleDmem (refDecoded s.params m f) r s = s.dmem :=
    cycleDmem_of_not_store (fun h => by cases hop.symm.trans h) r s
  rw [exec_ref_completes hs f hm halu (fun h => absurd hop h), hregs, hnext, hdmem]
  rfl

/-- A branch on a compare completes with the compare's 1 or 0 in the ALU's register and its target chosen by it. -/
theorem exec_compareBranch {c : Bool} (he : compareBranch (refEntry m))
    (halu : cycleAlu (refDecoded s.params m f) s = .ok (compareResult c)) :
    exec (.named m f) s = .next
      (if c then afterCycle s 1 (readGpr s f.rs) else afterCycle s 0 (efa s + 4)) := by
  obtain ⟨hop, hwb, hrs⟩ := he
  have hm : m ≠ .halt := by
    rintro rfl
    cases hwb
  have hregs : cycleRegs (refDecoded s.params m f) (compareResult c) s = s.x := by simp [cycleRegs, refDecoded, hwb]
  have hnext : cycleNext (refDecoded s.params m f) (compareResult c) s =
      if compareResult c ≠ 0 then readGpr s f.rs else pcPlus4 s := by
    simp [cycleNext, cycleResult, rsValue, rsIndex, readGpr, refDecoded, hwb, hrs]
  have hdmem : cycleDmem (refDecoded s.params m f) (compareResult c) s = s.dmem :=
    cycleDmem_of_not_store (fun h => by cases hop.symm.trans h) _ s
  rw [exec_ref_completes hs f hm halu (fun h => absurd hop h), hregs, hnext, hdmem]
  cases c <;> rfl

/-- A class with the disabled entry completes with the sentinel in the ALU's register and the next instruction at `A + 4`. -/
theorem exec_disabledEntry (he : refEntry m = disabledEntry) :
    exec (.named m f) s = .next { afterCycle s s.params.aluSentinel (efa s + 4) with
      stop := decide (s.params.opc m = s.params.opc .halt) } := by
  rw [exec_ref hs, refDecoded, he, runCycle_disabledEntry hs.ready, pcPlus4]

/-- So does one that is not HALT, and the machine goes on. -/
theorem exec_disabledEntry_of_ne_halt (he : refEntry m = disabledEntry) (hm : m ≠ .halt) :
    exec (.named m f) s = .next (afterCycle s s.params.aluSentinel (efa s + 4)) := by
  rw [exec_disabledEntry hs f he, decide_eq_false (opc_ne_halt hs hm), afterCycle_stop_false hs.ready]

end ref

/-! ### Arithmetic, logic, shifts and moves (R252 to R268, R275 to R277) -/

/-- Settles O46: the product is the low word of the signed one by `signedProductIsUnsignedProduct`. -/
theorem integerArithmeticResults : Obligations.IntegerArithmeticResults := fun s f =>
  ⟨fun hs => exec_resultToReg hs f ⟨rfl, rfl, rfl⟩ (alu_add _ _ _),
    fun hs => exec_resultToReg hs f ⟨rfl, rfl, rfl⟩ (alu_sub _ _ _),
    fun hs => exec_resultToReg hs f ⟨rfl, rfl, rfl⟩ (signedProductIsUnsignedProduct s.params _ _).2,
    fun hs => exec_resultToReg hs f ⟨rfl, rfl, rfl⟩ (alu_add _ _ _)⟩

/-- DIV's ALU result is the truncating quotient of `x[rs]` by `x[rt]`, or one of its two faults. -/
theorem cycleAlu_div (s : State) (f : Fields) :
    cycleAlu (refDecoded s.params .div f) s = aluDiv (readGpr s f.rs) (readGpr s f.rt) := rfl

/-- A fault of DIV's ALU stops it in the Execute tick, with the operand pair recorded (60_exceptions.md R302). -/
theorem exec_div_aluFault {s : State} (hs : s.ReadyFor .div) (f : Fields) :
    (aluDiv (readGpr s f.rs) (readGpr s f.rt) = .error .divZero →
      exec (.div f) s = .fault (.divZero (readGpr s f.rs) (readGpr s f.rt) (beforeExecute s))) ∧
    (aluDiv (readGpr s f.rs) (readGpr s f.rt) = .error .divOverflow →
      exec (.div f) s = .fault (.divOverflow (readGpr s f.rs) (readGpr s f.rt) (beforeExecute s))) :=
  ⟨fun halu => (exec_ref hs f).trans (runCycle_aluFault hs.ready ((cycleAlu_div s f).trans halu)),
    fun halu => (exec_ref hs f).trans (runCycle_aluFault hs.ready ((cycleAlu_div s f).trans halu))⟩

/-- Settles O47, by the three operand cases of `aluDiv_cases`. -/
theorem divisionResultsAndFaults : Obligations.DivisionResultsAndFaults := by
  intro s f hs
  obtain ⟨hzero, hoverflow⟩ := exec_div_aluFault hs f
  rcases aluDiv_cases (readGpr s f.rs) (readGpr s f.rt) with ⟨hb, hdiv⟩ | ⟨hb, ha, hones, hdiv⟩ | ⟨hb, hpair, hdiv⟩
  · refine ⟨fun _ => ?_, fun _ hones => absurd (hb.symm.trans hones) (by decide), fun hne => absurd hb hne⟩
    rw [hzero hdiv, hb]
  · refine ⟨fun h0 => absurd h0 hb, fun _ _ => ?_, fun _ hpair => absurd ⟨ha, hones⟩ hpair⟩
    rw [hoverflow hdiv, ha, hones]
  · exact ⟨fun h0 => absurd h0 hb, fun ha hones => absurd ⟨ha, hones⟩ hpair,
      fun _ _ => exec_resultToReg hs f ⟨rfl, rfl, rfl⟩ ((cycleAlu_div s f).trans hdiv)⟩

/-- Settles O48: the ALU gives a binary64 result for every operand pair. -/
theorem floatArithmeticResults : Obligations.FloatArithmeticResults := fun _ f =>
  ⟨fun hs => exec_resultToReg hs f ⟨rfl, rfl, rfl⟩ (alu_fadd _ _ _),
    fun hs => exec_resultToReg hs f ⟨rfl, rfl, rfl⟩ (alu_fsub _ _ _),
    fun hs => exec_resultToReg hs f ⟨rfl, rfl, rfl⟩ (alu_fmul _ _ _),
    fun hs => exec_resultToReg hs f ⟨rfl, rfl, rfl⟩ (alu_fdiv _ _ _)⟩

/-- Settles O49, by the ALU's four bitwise operations. -/
theorem logicResults : Obligations.LogicResults := fun _ f =>
  ⟨fun hs => exec_resultToReg hs f ⟨rfl, rfl, rfl⟩ (alu_and _ _ _),
    fun hs => exec_resultToReg hs f ⟨rfl, rfl, rfl⟩ (alu_or _ _ _),
    fun hs => exec_resultToReg hs f ⟨rfl, rfl, rfl⟩ (alu_xor _ _ _),
    fun hs => exec_resultToReg hs f ⟨rfl, rfl, rfl⟩ (alu_not _ _ _)⟩

/-- Settles O50: the shifts of the ALU, whose amount in the immediate forms is the 12-bit field's value. -/
theorem shiftResults : Obligations.ShiftResults := by
  intro s f
  rw [← immValue_toNat f.imm]
  exact ⟨fun hs => exec_resultToReg hs f ⟨rfl, rfl, rfl⟩ (alu_shl _ _ _),
    fun hs => exec_resultToReg hs f ⟨rfl, rfl, rfl⟩ (alu_shr _ _ _),
    fun hs => exec_resultToReg hs f ⟨rfl, rfl, rfl⟩ (alu_shl _ _ _),
    fun hs => exec_resultToReg hs f ⟨rfl, rfl, rfl⟩ (alu_shr _ _ _)⟩

theorem alu_add_zero (p : Params) (a : Word) : alu p .add a 0 = .ok a := by
  rw [alu_add]
  exact congrArg Except.ok (BitVec.add_zero a)

theorem alu_zero_add (p : Params) (b : Word) : alu p .add 0 b = .ok b := by
  rw [alu_add]
  exact congrArg Except.ok (BitVec.zero_add b)

/-- `SETHI` of an immediate takes all its 12 bits: the mask of R199 removes none. -/
theorem alu_sethi_immValue (p : Params) (a : Word) (imm : Imm) :
    alu p .sethi a (immValue imm) = .ok ((a &&& 0x000FFFFFFFFFFFFF#64) ||| (immValue imm <<< 52)) := by
  have hmask : immValue imm &&& 0xFFF#64 = immValue imm := by
    apply BitVec.eq_of_toNat_eq
    rw [BitVec.toNat_and, immValue_toNat]
    exact Nat.and_two_pow_sub_one_of_lt_two_pow imm.isLt
  rw [alu_sethi, aluSetHi, hmask]

/-- Settles O57: MOV and MOVI are sums with zero, MOVHI is `SETHI`. -/
theorem moveResults : Obligations.MoveResults := fun s f =>
  ⟨fun hs => exec_resultToReg hs f ⟨rfl, rfl, rfl⟩ (alu_add_zero s.params (readGpr s f.rs)),
    fun hs => exec_resultToReg hs f ⟨rfl, rfl, rfl⟩ (alu_zero_add s.params (immValue f.imm)),
    fun hs => exec_resultToReg hs f ⟨rfl, rfl, rfl⟩ (alu_sethi_immValue s.params (readGpr s f.rd) f.imm)⟩

/-! ### Branches (R269, R270) -/

/-- Settles O51: the compare's condition chooses the target. -/
theorem conditionalBranches : Obligations.ConditionalBranches := by
  intro s f
  refine ⟨fun hs => ?_, fun hs => ?_⟩
  · have hexec := exec_compareBranch hs f ⟨rfl, rfl, rfl⟩ (alu_ne s.params (readGpr s f.rd) (readGpr s f.rt))
    simp only [bne_iff_ne] at hexec
    exact hexec
  · have hexec := exec_compareBranch hs f ⟨rfl, rfl, rfl⟩ (alu_gt s.params (readGpr s f.rd) (readGpr s f.rt))
    simp only [decide_eq_true_eq] at hexec
    exact hexec

/-! ### Call, return, load and store (R271 to R274) -/

/-- Settles O53: the stored cell by `exec_ref_completes`, the bytes outside it by `readByte_memWrite_outside`. -/
theorem callStoresReturnAddress : Obligations.CallStoresReturnAddress := by
  intro s f hs a hin
  have halu : cycleAlu (refDecoded s.params .call f) s = .ok (readGpr s f.rs) :=
    alu_add_zero s.params (readGpr s f.rs)
  exact ⟨exec_ref_completes hs f (by decide) halu (fun _ => hin), fun hm _ hb => readByte_memWrite_outside hm hb _⟩

/-- Settles O54: the result is the cell that the Memory tick reads. -/
theorem returnLoadsTarget : Obligations.ReturnLoadsTarget := by
  intro s f hs a hin
  exact exec_ref_completes hs f (by decide) (alu_none s.params 0 0) (fun _ => hin)

/-- Settles O55: the address is the ALU's sum, and the result the cell that the Memory tick reads. -/
theorem loadReadsCell : Obligations.LoadReadsCell := by
  intro s f hs ea
  have halu : cycleAlu (refDecoded s.params .load f) s = .ok ea := rfl
  exact ⟨fun hin => exec_ref_completes hs f (by decide) halu (fun _ => hin),
    exec_ref_dmemRange hs f halu (by decide)⟩

/-- Settles O56: as for the call, with the ALU's sum as the address. -/
theorem storeWritesCell : Obligations.StoreWritesCell := by
  intro s f hs ea
  have halu : cycleAlu (refDecoded s.params .store f) s = .ok ea := rfl
  exact ⟨fun hin => exec_ref_completes hs f (by decide) halu (fun _ => hin),
    fun hm _ hb => readByte_memWrite_outside hm hb _, exec_ref_dmemRange hs f halu (by decide)⟩

/-! ### Input, output and halt (R278 to R280) -/

/-- Settles O58: both have the disabled entry, and neither is HALT. -/
theorem inputOutputStubs : Obligations.InputOutputStubs := fun _ f =>
  ⟨fun hs => exec_disabledEntry_of_ne_halt hs f rfl (by decide),
    fun hs => exec_disabledEntry_of_ne_halt hs f rfl (by decide)⟩

/-- A stopped machine's tick answers the same state (40_signal_kernel.md R120, log entry 9). -/
theorem tick_stopped {s : State} (hstop : s.stop = true) : tick s = .next s := if_pos hstop

/-- Settles O59: the disabled entry under the halt's own number, after which the machine is stopped. -/
theorem haltStopsMachine : Obligations.HaltStopsMachine := by
  intro s f hs
  have hexec : exec (.halt f) s = .next { afterCycle s s.params.aluSentinel (efa s + 4) with stop := true } := by
    rw [← decide_eq_true (rfl : s.params.opc .halt = s.params.opc .halt)]
    exact exec_disabledEntry hs f rfl
  refine ⟨hexec, fun t ht => ?_⟩
  cases hexec.symm.trans ht
  exact ⟨step_stopped rfl, tick_stopped rfl⟩

end Sys2Proof.Machine
end

section
/-! SUPPORT. The proofs of the statements about the fatal conditions (60_exceptions.md): what a fatal tick leaves (O32), on
which states and operands a tick is fatal (O33), and what a fatal instruction has committed (O34). O33 goes by the tick of each
stage, which one check of R118 at most can stop; O34 is read off the cycle that R249 writes. -/

namespace Sys2Proof.Machine

/-! ### What a fatal tick leaves (R301) -/

/-- The only fatal condition of the fetch is its address out of range (41_fetch_unit.md R132). -/
theorem eq_imemRange_of_fetchWord_error {s : State} {r : Fault} (h : fetchWord s = .error r) : r = .imemRange (efa s) s := by
  cases hin : imemOut s.params (efa s) with
  | true => exact (Except.error.inj ((fetchWord_error hin).symm.trans h)).symm
  | false => rw [fetchWord_ok hin] at h; cases h

@[simp] theorem faultState_aluFatal (d : Decoded) (e : AluFault) (s : State) : faultState (aluFatal d e s) = s := by
  cases e <;> rfl

/-- Whichever check of R118 a tick fails, it records the state at its start. -/
theorem faultState_of_tickOf_fault {d : Decoded} {s : State} {r : Fault} (h : tickOf d s = .fault r) : faultState r = s := by
  obtain ⟨_, ⟨_, rfl⟩ | ⟨e, _, rfl⟩ | ⟨_, rfl⟩ | ⟨_, _, rfl⟩ | ⟨_, rfl⟩⟩ := tickOf_fault h
  case inr.inl => exact faultState_aluFatal d e s
  all_goals rfl

theorem faultState_of_tick_fault {s : State} {r : Fault} (h : tick s = .fault r) : faultState r = s := by
  rcases tick_fault h with hfetch | ⟨_, _, htick⟩
  · rw [eq_imemRange_of_fetchWord_error hfetch, faultState]
  · exact faultState_of_tickOf_fault htick

/-- No tick runs in a stopped machine, so none is fatal there. -/
theorem running_of_tick_fault {s : State} {r : Fault} (h : tick s = .fault r) : s.stop = false := by
  by_contra hstop
  rw [tick_stopped (by simpa using hstop)] at h
  cases h

/-- Settles O32: a run ends at its first fatal tick, and the fault carries the state that reset takes the parameters from. -/
theorem fatalTickCommitsNothing : Obligations.FatalTickCommitsNothing := by
  intro s r h
  have hrecorded := faultState_of_tick_fault h
  refine ⟨hrecorded, fun n => ?_, fun _ => rfl, rfl, ?_⟩
  · rw [run_succ (running_of_tick_fault h), h, sessionRun]
  · rw [sessionReset, hostReset, hrecorded]

/-! ### On which states and operands a tick is fatal (R302) -/

/-- The ALU faults exactly on the two operand pairs of `DIV` (44_alu.md R182, R186). -/
theorem alu_error_iff {p : Params} {op : AluOp} {a b : Word} {e : AluFault} :
    alu p op a b = .error e ↔
      op = .div ∧ (b = 0 ∧ e = .divZero ∨ a = intMin ∧ b = BitVec.allOnes 64 ∧ e = .divOverflow) := by
  by_cases hop : op = .div
  · subst hop
    rw [alu_div]
    rcases aluDiv_cases a b with ⟨rfl, hdiv⟩ | ⟨_, rfl, rfl, hdiv⟩ | ⟨hb, hpair, hdiv⟩
    · rw [hdiv]
      simp [eq_comm]
    · rw [hdiv]
      simp [eq_comm]
    · rw [hdiv]
      simp only [reduceCtorEq, false_iff]
      rintro ⟨_, ⟨h0, _⟩ | ⟨ha, hones, _⟩⟩
      · exact hb h0
      · exact hpair ⟨ha, hones⟩
  · exact ⟨fun h => absurd (alu_error_isDiv p a b h) hop, fun h => absurd h.1 hop⟩

section stages
variable {d : Decoded} {s : State} {r : Fault} (hrun : s.stop = false) (hin : imemOut s.params (efa s) = false)
include hrun hin

/-- With the fetch address in range, an Execute tick is fatal by the ALU's fault alone. -/
theorem tickOf_execute_fault_iff (hst : s.stage = .execute) :
    tickOf d s = .fault r ↔
      ∃ e, alu s.params d.entry.alu.op (aluOperand d d.entry.alu.src0 s) (aluOperand d d.entry.alu.src1 s) = .error e ∧
        r = aluFatal d e s := by
  rw [tickOf_execute hrun hin hst]
  cases alu s.params d.entry.alu.op (aluOperand d d.entry.alu.src0 s) (aluOperand d d.entry.alu.src1 s) with
  | error e => simp [eq_comm]
  | ok v => simp

/-- With the fetch address in range, a Memory tick is fatal by a load's or a store's address alone. -/
theorem tickOf_memory_fault_iff (hst : s.stage = .memory) :
    tickOf d s = .fault r ↔
      d.entry.mem.op ≠ .none ∧ dmemOut s.params (effAddr d s) = true ∧ r = .dmemRange (effAddr d s) s := by
  rw [tickOf_memory hrun hin hst, ← and_assoc]
  split
  · next hrange => simp [hrange, eq_comm]
  · next hrange => simp [hrange]

/-- With the fetch address in range, a Writeback tick is fatal by a guard write alone. -/
theorem tickOf_writeback_fault_iff (hst : s.stage = .writeback) :
    tickOf d s = .fault r ↔
      d.entry.wb.dest = .reg ∧ rdIndex s.params d = guardIndex ∧ r = .guardWrite d.opc s := by
  rw [tickOf_writeback hrun hin hst, ← and_assoc]
  split
  · next hguard => simp [hguard, eq_comm]
  · next hguard => simp [hguard]

/-- With the fetch address in range, the fatal conditions of a tick, each in its stage. -/
theorem tickOf_fault_iff :
    tickOf d s = .fault r ↔
      (s.stage = .memory ∧ d.entry.mem.op ≠ .none ∧ dmemOut s.params (effAddr d s) = true ∧
        r = .dmemRange (effAddr d s) s) ∨
      (s.stage = .execute ∧ ∃ e,
        alu s.params d.entry.alu.op (aluOperand d d.entry.alu.src0 s) (aluOperand d d.entry.alu.src1 s) = .error e ∧
        r = aluFatal d e s) ∨
      (s.stage = .writeback ∧ d.entry.wb.dest = .reg ∧ rdIndex s.params d = guardIndex ∧ r = .guardWrite d.opc s) := by
  cases hst : s.stage with
  | fetch => simp [tickOf_fetch hrun hin hst]
  | decode => simp [tickOf_decode hrun hin hst]
  | execute => simp [tickOf_execute_fault_iff hrun hin hst]
  | memory => simp [tickOf_memory_fault_iff hrun hin hst]
  | writeback => simp [tickOf_writeback_fault_iff hrun hin hst]

end stages

/-- The ALU's fault of a tick, by its operation and its operand pair. -/
theorem exists_aluFatal_iff {d : Decoded} {s : State} {r : Fault} :
    (∃ e,
      alu s.params d.entry.alu.op (aluOperand d d.entry.alu.src0 s) (aluOperand d d.entry.alu.src1 s) = .error e ∧
      r = aluFatal d e s) ↔
      (d.entry.alu.op = .div ∧ aluOperand d d.entry.alu.src1 s = 0 ∧
        r = .divZero (aluOperand d d.entry.alu.src0 s) (aluOperand d d.entry.alu.src1 s) s) ∨
      (d.entry.alu.op = .div ∧ aluOperand d d.entry.alu.src0 s = intMin ∧
        aluOperand d d.entry.alu.src1 s = BitVec.allOnes 64 ∧
        r = .divOverflow (aluOperand d d.entry.alu.src0 s) (aluOperand d d.entry.alu.src1 s) s) := by
  simp only [alu_error_iff]
  constructor
  · rintro ⟨_, ⟨hop, ⟨hzero, rfl⟩ | ⟨hmin, hones, rfl⟩⟩, hr⟩
    · exact .inl ⟨hop, hzero, hr⟩
    · exact .inr ⟨hop, hmin, hones, hr⟩
  · rintro (⟨hop, hzero, hr⟩ | ⟨hop, hmin, hones, hr⟩)
    · exact ⟨_, ⟨hop, .inl ⟨hzero, rfl⟩⟩, hr⟩
    · exact ⟨_, ⟨hop, .inr ⟨hmin, hones, rfl⟩⟩, hr⟩

/-- Past its Fetch tick an instruction's address stays in range: no override is left, and the PC holds it (R302). -/
theorem State.Inv.efa_in_range {s : State} (hs : s.Inv) (hst : s.stage ≠ .fetch) : imemOut s.params (efa s) = false := by
  have hnone : s.redirect = none := Option.not_isSome_iff_eq_none.mp fun h => hst (hs.redirect_iff.mp h).1
  rw [efa_none s hnone]
  exact hs.pc_in_range hst

/-- A running machine's tick with the fetch address out of range is fatal by it (R118, R132). -/
theorem tick_imemRange {s : State} (hrun : s.stop = false) (hout : imemOut s.params (efa s) = true) :
    tick s = .fault (.imemRange (efa s) s) := by
  simp [tick, hrun, fetchWord_error hout]

/-- Settles O33: out of range is the fetch's condition, which the invariant places in the Fetch stage; the other conditions are
`tickOf_fault_iff` at the fetched word's control record. -/
theorem fatalConditionsOfTicks : Obligations.FatalConditionsOfTicks := by
  refine ⟨?_, fun _ _ _ _ _ => ⟨rfl, rfl, rfl, rfl, rfl, rfl⟩⟩
  intro s r hs hrun d a b
  cases hin : imemOut s.params (efa s) with
  | true =>
    have hst : s.stage = .fetch := by
      by_contra hst
      rw [hs.efa_in_range hst] at hin
      cases hin
    rw [tick_imemRange hrun hin, Host.Outcome.fault.injEq, @eq_comm _ _ r]
    simp [hst]
  | false =>
    rw [tick_eq_tickOf hrun (fetchWord_ok hin), tickOf_fault_iff hrun hin, exists_aluFatal_iff, and_or_left]
    simp only [Bool.false_eq_true, false_and, and_false, false_or, or_assoc]
    rfl

/-! ### What a fatal instruction has committed (R306) -/

/-- A cycle that stops past its Fetch tick: in the Execute tick by the ALU's fault, in the Memory tick by the address, or in the
Writeback tick by a guard write, with the state before that tick recorded (70_reset_and_hazards.md R341). -/
theorem cycleOutcome_fault {d : Decoded} {s : State} {r : Fault} (hin : imemOut s.params (efa s) = false)
    (h : cycleOutcome d s = .fault r) :
    ((faultCode r = 3 ∨ faultCode r = 4) ∧ faultState r = beforeExecute s) ∨
    ∃ v, cycleAlu d s = .ok v ∧
      (r = .dmemRange (cycleAddr d v s) (beforeMemory v s) ∨ r = .guardWrite d.opc (beforeWriteback d v s)) := by
  rw [cycleOutcome, if_neg (by simp [hin])] at h
  split at h
  · injection h with h
    exact .inl (h ▸ ⟨.inl rfl, rfl⟩)
  · injection h with h
    exact .inl (h ▸ ⟨.inr rfl, rfl⟩)
  · next v hv =>
    refine .inr ⟨v, hv, ?_⟩
    split at h
    · injection h with h
      exact .inl h.symm
    · split at h
      · injection h with h
        exact .inr h.symm
      · cases h

/-- A ready machine's step is the cycle that R249 writes, with the fetched word's control record. -/
theorem step_eq_cycleOutcome {s : State} (hs : s.Ready) :
    step s = cycleOutcome (decodeWires s.params (imemRead s.imem (efa s))) s := by
  rw [step_eq_exec hs.running (fetchWord_ok hs.in_range), exec_decode, runCycle_eq_cycleOutcome _ hs.running hs.at_fetch]

/-- Settles O34: the states before the Execute, the Memory and the Writeback tick, of which the last alone has the store. -/
theorem fatalInstructionKeepsEarlierTicks : Obligations.FatalInstructionKeepsEarlierTicks := by
  intro s r hs h d
  rw [step_eq_cycleOutcome hs] at h
  rcases cycleOutcome_fault hs.in_range h with ⟨hcode, hrecorded⟩ | ⟨v, halu, rfl | rfl⟩
  · rw [hrecorded]
    exact ⟨rfl, rfl, rfl, .inl ⟨hcode, rfl, rfl⟩⟩
  · exact ⟨rfl, rfl, rfl, .inr (.inl ⟨rfl, rfl, v, halu, rfl, rfl⟩)⟩
  · exact ⟨rfl, rfl, rfl, .inr (.inr ⟨rfl, v, halu, rfl, rfl, fun hop => cycleDmem_of_not_store hop v s,
      fun hop => if_pos hop⟩)⟩

end Sys2Proof.Machine
end

section
/-! SUPPORT. The proofs of the statements about reset and the instruction's ticks (70_reset_and_hazards.md): the five ticks of an
instruction (O16), what reset leaves (O24), the cells of a loaded image (O25), and the invariant after boot (O27) and after reset
(O26), which is boot with two empty images. -/

namespace Sys2Proof.Machine

/-! ### The five ticks of an instruction (R340) -/

/-- Settles O16: a step from Fetch that completes has fetched, so it ends the whole cycle. -/
theorem instructionTakesFiveTicks : Obligations.InstructionTakesFiveTicks := by
  intro s t hrun hst h
  rcases step_next h with ⟨hstop, _⟩ | ⟨_, w, hw, _⟩
  · simp [hrun] at hstop
  · obtain ⟨r, _, rfl⟩ := step_eq_cycleEnd ⟨hrun, hst, imemOut_eq_false_of_fetchWord hw⟩ hw h
    exact ⟨rfl, rfl⟩

/-! ### What reset leaves (R330) -/

theorem readCell_nil (i : Nat) : readCell [] i = 0 := by
  simp [readCell, unlistedByte]

/-- Reset puts every general register to 0 (10_state.md R38). -/
theorem readGpr_resetWith (p : Params) (r : RegNo) : readGpr (.resetWith p) r = 0 := by
  have hother : readGpr (.resetWith p) r = (Vector.replicate numRegs (0 : Word))[regIndex r] :=
    writeReg_other _ _ (regIndex_ne_guard r)
  rw [hother, Fin.getElem_fin, Vector.getElem_replicate]

/-- Settles O24: the registers by `readGpr_resetWith` and `readReg_resetWith_guard`, the cells of an empty memory by
`readCell_nil`. -/
theorem resetLeavesSpecValues : Obligations.ResetLeavesSpecValues :=
  ⟨fun p => ⟨rfl, rfl, rfl, readGpr_resetWith p, readReg_resetWith_guard p, rfl, rfl, rfl, rfl, readCell_nil, readCell_nil⟩,
    fun _ => rfl, fun _ => rfl⟩

/-! ### The cells of a loaded image (R333) -/

/-- A load leaves the cells after the image's. -/
theorem readCell_loadCells_ge {m : Memory} (hm : m.wf) {i k : Nat} {image : List Word} (hk : i + image.length ≤ k) :
    readCell (loadCells m i image) k = readCell m k := by
  induction image generalizing m i with
  | nil => rfl
  | cons v rest ih =>
    rw [List.length_cons] at hk
    rw [loadCells, ih (writeCell_wf hm i v) (by omega), readCell_writeCell_other hm (by omega)]

/-- Cell `i` of a loaded memory is the image's, and 0 past its end. -/
theorem readCell_imageMemory_eq_getD (image : List Word) (i : Nat) : readCell (imageMemory image) i = image.getD i 0 := by
  rw [List.getD_eq_getElem?_getD]
  cases h : image[i]? with
  | some v => exact readCell_imageMemory h
  | none =>
    have hpast : 0 + image.length ≤ i := by simpa using h
    exact (readCell_loadCells_ge wf_nil hpast).trans (readCell_nil i)

/-- The images that fit are loaded before the first tick. -/
theorem loadImages_of_fit {s : State} {im dm : List Word} (hclock : s.clock = 0) (him : im.length ≤ s.params.imemCells)
    (hdm : dm.length ≤ s.params.dmemCells) :
    loadImages s im dm = .next { s with imem := imageMemory im, dmem := imageMemory dm } := by
  rw [loadImages, if_neg (not_not_intro hclock), if_neg (Nat.not_lt.mpr him), if_neg (Nat.not_lt.mpr hdm)]

/-- Settles O25: the cells by `readCell_imageMemory_eq_getD`, the two checks in their order. -/
theorem imageLoadPlacesCells : Obligations.ImageLoadPlacesCells := by
  refine ⟨readCell_imageMemory_eq_getD, fun s im dm hclock => ⟨fun him => ?_, fun him hdm => ?_, loadImages_of_fit hclock⟩⟩
  · rw [loadImages, if_neg (not_not_intro hclock), if_pos him]
  · rw [loadImages, if_neg (not_not_intro hclock), if_neg (Nat.not_lt.mpr him), if_pos hdm]

/-! ### The invariant after boot and after reset (R330, R332) -/

/-- A load puts no byte past the image's last cell. -/
theorem lt_of_mem_loadCells {m : Memory} {i n : Nat} {image : List Word} (hm : ∀ c ∈ m, c.1 < 8 * n)
    (hfit : i + image.length ≤ n) : ∀ c ∈ loadCells m i image, c.1 < 8 * n := by
  induction image generalizing m i with
  | nil => exact hm
  | cons v rest ih =>
    rw [List.length_cons] at hfit
    refine ih (fun c hc => ?_) (by omega)
    rcases mem_writeCell hc with ⟨_, hlt⟩ | hold
    · omega
    · exact hm c hold

theorem lt_of_mem_imageMemory {n : Nat} {image : List Word} (hfit : image.length ≤ n) :
    ∀ c ∈ imageMemory image, c.1 < 8 * n :=
  lt_of_mem_loadCells (by simp) (by omega)

/-- The reset state with two images that fit meets the invariant. -/
theorem loaded_inv {p : Params} {im dm : List Word} (hp : legalParams p = true) (him : im.length ≤ p.imemCells)
    (hdm : dm.length ≤ p.dmemCells) :
    State.Inv { State.resetWith p with imem := imageMemory im, dmem := imageMemory dm } where
  params_legal := hp
  guard_value := readReg_resetWith_guard p
  redirect_iff := by simp
  clock_stage := rfl
  pc_in_range := fun hst => absurd rfl hst
  imem_canonical := imageMemory_wf im
  dmem_canonical := imageMemory_wf dm
  imem_capacity := lt_of_mem_imageMemory him
  dmem_capacity := lt_of_mem_imageMemory hdm

/-- Settles O27: the load of images that fit, and the invariant by `loaded_inv`. -/
theorem bootMeetsInvariant : Obligations.BootMeetsInvariant :=
  fun p _ _ hp him hdm => ⟨_, loadImages_of_fit (resetWith_clock p) him hdm, loaded_inv hp him hdm⟩

theorem legalParams_exampleParams : legalParams exampleParams = true := by decide

/-- The parameters that reset takes are legal by construction (log entry 3). -/
theorem legalParams_legalised (p : Params) : legalParams (legalised p) = true := by
  unfold legalised
  split
  · next hp => exact hp
  · exact legalParams_exampleParams

/-- Settles O26: reset is boot with two empty images, under legal parameters. -/
theorem resetMeetsInvariant : Obligations.ResetMeetsInvariant :=
  loaded_inv (im := []) (dm := []) (legalParams_legalised Config.rawParams) (Nat.zero_le _) (Nat.zero_le _)

end Sys2Proof.Machine
end
